-- ==== Sys2Proof/Word.lean ====
section
/-! DEFINITION. The word types of the block (`00_scope.md` rules R9, R10): every address and every `u32`
value is a bit vector, so that `+` wraps modulo 2^32 and shifts by 32 or more give 0. -/

namespace Sys2Proof

/-- A `u32`: a logical or physical address, a register, a descriptor word (R10). -/
abbrev Word := BitVec 32

/-- A byte of a backing store (R44). -/
abbrev Byte := BitVec 8

/-- A `u16`: MMUSR, a Word-wide value (R12, R36). -/
abbrev Half := BitVec 16

/-- A `u64`: a root pointer (R34). -/
abbrev Quad := BitVec 64

end Sys2Proof
end

