-- ==== Sys2Proof/Syntax.lean ====
section
/-! DEFINITION. The commands of the block: one constructor of `Instr` per row of `spec/opcode_table.json`
(`30_encoding.md` rule R162), with the operand types of each. -/

namespace Sys2Proof

/-- Access widths (R12). -/
inductive Width where
  | byte
  | word
  | long
  deriving DecidableEq, Repr

/-- The access descriptor `acc` of a translating operation (R14). `data = false` is a program access. -/
structure Access where
  supervisor : Bool
  data : Bool
  write : Bool
  deriving DecidableEq, Repr

/-- What a slot of the dispatch table names (R43): one bank instance. -/
inductive BankRef where
  /-- RAM bank `b`. -/
  | ram (b : Nat)
  | rom
  | videoMono
  | videoColor
  | empty
  | busErr
  | io
  deriving DecidableEq, Repr

/-- The 42 commands (R162). `la` is a logical address, `pa` a physical one. An operation whose header uses
only the S and D bits carries them as `sup` and `dat`: its direction is fixed by its opcode (R160, R163). -/
inductive Instr where
  /-- WR_TC (R270). -/
  | wrTc (v : Word)
  /-- WR_SRP (R271). -/
  | wrSrp (v : Quad)
  /-- WR_CRP (R272). -/
  | wrCrp (v : Quad)
  /-- WR_TT0 (R273). -/
  | wrTt0 (v : Word)
  /-- WR_TT1 (R274). -/
  | wrTt1 (v : Word)
  /-- WR_MMUSR (R275). -/
  | wrMmusr (v : Half)
  /-- RD_TC (R276). -/
  | rdTc
  /-- RD_SRP (R277). -/
  | rdSrp
  /-- RD_CRP (R278). -/
  | rdCrp
  /-- RD_TT0 (R279). -/
  | rdTt0
  /-- RD_TT1 (R280). -/
  | rdTt1
  /-- RD_MMUSR (R281). -/
  | rdMmusr
  /-- TRANSLATE (R401). -/
  | translate (acc : Access) (la : Word)
  /-- TT0_MATCH (R345). -/
  | tt0Match (acc : Access) (la : Word)
  /-- TT1_MATCH (R346). -/
  | tt1Match (acc : Access) (la : Word)
  /-- WALK (R320). -/
  | walk (acc : Access) (la : Word)
  /-- ATC_LOOKUP (R378). -/
  | atcLookup (acc : Access) (la : Word)
  /-- ATC_INSERT (R379): the metadata bits CI, WP and M come from the header. -/
  | atcInsert (sup dat ci wp m : Bool) (la pa : Word)
  /-- FLUSH_ALL (R375). -/
  | flushAll
  /-- FLUSH_FC (R376). -/
  | flushFc (fc : BitVec 3)
  /-- FLUSH_PAGE (R377). -/
  | flushPage (fc : BitVec 3) (la : Word)
  /-- LREAD8 (R405). -/
  | lread8 (sup dat : Bool) (la : Word)
  /-- LREAD16 (R406). -/
  | lread16 (sup dat : Bool) (la : Word)
  /-- LREAD32 (R407). -/
  | lread32 (sup dat : Bool) (la : Word)
  /-- LWRITE8 (R408). -/
  | lwrite8 (sup dat : Bool) (la : Word) (v : Byte)
  /-- LWRITE16 (R409). -/
  | lwrite16 (sup dat : Bool) (la : Word) (v : Half)
  /-- LWRITE32 (R410). -/
  | lwrite32 (sup dat : Bool) (la : Word) (v : Word)
  /-- PREAD8 (R203). -/
  | pread8 (pa : Word)
  /-- PREAD16 (R204). -/
  | pread16 (pa : Word)
  /-- PREAD32 (R205). -/
  | pread32 (pa : Word)
  /-- PWRITE8 (R206). -/
  | pwrite8 (pa : Word) (v : Byte)
  /-- PWRITE16 (R207). -/
  | pwrite16 (pa : Word) (v : Half)
  /-- PWRITE32 (R208). -/
  | pwrite32 (pa : Word) (v : Word)
  /-- TO_HOST (R209). -/
  | toHost (pa : Word)
  /-- BOUNDS_CHECK (R210). -/
  | boundsCheck (pa size : Word)
  /-- MAP (R211). -/
  | map (bank : BankRef) (start count : Word)
  /-- REGION_NAME (R415). -/
  | regionName (pa : Word)
  /-- QUERY_DECODED (R416). -/
  | queryDecoded
  /-- SNAP_SAVE (R422). -/
  | snapSave
  /-- SNAP_RESTORE (R423): the 54 words of the byte view (R420). -/
  | snapRestore (view : List Word)
  /-- MMU_RESET (R501). -/
  | mmuReset
  /-- COLD_RESET (R502). -/
  | coldReset
  deriving DecidableEq, Repr

end Sys2Proof
end

