-- ==== Sys2Proof/Config.lean ====
section
/-! DEFINITION. What an implementation fixes and what nobody fixes. `Params` holds the implementation parameters
of `00_scope.md` rule R7 as plain data. The opaque constants of the namespace `Config` are the free inputs
`draw(T)` of rule R11 and the I/O collaborator of `41_region_handlers.md` rule R238: nothing in Lean can say what
they answer. -/

namespace Sys2Proof

/-- A map from 0, 1, 2, ... given by runs: `(n, a)` stands for `n` positions in a row that hold `a`. It writes
down a table of 65536 slots as a few pairs (R43). -/
abbrev Runs (α : Type) := List (Nat × α)

/-- EARLY_TERM_OFFSET (R7, D10). -/
inductive EarlyTermOffset where
  | pageOffsetOnly
  | remainingIndexBits
  deriving DecidableEq, Repr

/-- LIMIT_CHECK (R7, D13). -/
inductive LimitCheck where
  | off
  | log
  | fault
  deriving DecidableEq, Repr

/-- TT_RWM_SENSE (R7, D41). -/
inductive TtRwmSense where
  | source
  | mc68030
  deriving DecidableEq, Repr

/-- ATC_MODE (R7, D44). -/
inductive AtcMode where
  | normal
  | alwaysMiss
  deriving DecidableEq, Repr

/-- ATC_VICTIM (R7, D20). -/
inductive AtcVictim where
  | fifo
  | draw
  deriving DecidableEq, Repr

/-- A parameter that a configuration either fixes or leaves to be drawn (`DRAW` admitted, R7). -/
inductive Drawable (α : Type) where
  | fixed (v : α)
  | draw
  deriving DecidableEq, Repr

/-- Contents of a store as a configuration gives them: the bytes listed by offset; every other byte is 0. -/
abbrev Image := List Host.Cell

/-- The configuration of one RAM bank: RAM_BASE, RAM_SIZE, RAM_MAX_SLOTS, RAM_INIT, REGION_NAME (R7). -/
structure RamBank where
  base : Word
  size : Nat
  maxSlots : Nat
  init : Drawable Image
  name : String
  deriving DecidableEq, Repr

/-- One entry of MEMORY_MAP: a `map(bank, start_slot, slot_count)` call made at cold reset (R7). -/
structure MapCall where
  bank : BankRef
  start : Nat
  count : Nat
  deriving DecidableEq, Repr

/-- The implementation parameters of R7. NUM_RAM_BANKS is `ram.length`. BOOT_OVERLAY is an input (R45) and is
not here; the I/O oracle is `Config.ioRead` and `Config.ioWrite`. -/
structure Params where
  ram : List RamBank
  /-- TOTAL_RAM_SIZE. -/
  totalRamSize : Nat
  romSize : Nat
  romImage : Image
  vmonoSize : Nat
  vcolorSize : Nat
  /-- VIDEO_INIT, the two stores apart. -/
  vmonoInit : Drawable Image
  vcolorInit : Drawable Image
  /-- MEMORY_MAP, in order. -/
  memoryMap : List MapCall
  /-- EMPTY_OWNER(slot). -/
  emptyOwner : Runs (Option Nat)
  /-- OVERLAY_RAM_BASE. -/
  overlayRamBase : Word
  romName : String
  vmonoName : String
  vcolorName : String
  emptyName : String
  busErrName : String
  ioName : String
  earlyTermOffset : EarlyTermOffset
  limitCheck : LimitCheck
  /-- SUPERVISOR_CHECK = ON. -/
  supervisorCheck : Bool
  /-- TT_FC_FILTER = ON. -/
  ttFcFilter : Bool
  ttRwmSense : TtRwmSense
  atcMode : AtcMode
  atcVictim : AtcVictim
  resetSrp : Drawable Quad
  resetCrp : Drawable Quad
  resetMmusr : Drawable Half
  deriving DecidableEq, Repr

/-- NUM_SLOTS (R7). -/
def numSlots : Nat := 65536

/-- ATC_ENTRIES (R7). -/
def atcEntries : Nat := 22

/-- OVERLAY_SIZE, 8 KiB (R7). -/
def overlaySize : Nat := 0x2000

/-- SNAPSHOT_VERSION (R7). -/
def snapshotVersion : Word := 1

/-- One access of the I/O bank, as `io_history` records it (R47). `v` is the value read or written, `be` the bus
error answered. -/
inductive IoEvent where
  | read (w : Width) (pa v : Word) (be : Bool) (diagPc : Word)
  | write (w : Width) (pa v : Word) (be : Bool) (diagPc : Word)
  deriving DecidableEq, Repr

/-! ### Free inputs. DESIGN CHOICE (log entries 6 and 8): the k-th draw is an opaque constant at k. -/

/-- FREE: the 64-bit value of the k-th draw (RESET_SRP, RESET_CRP under DRAW, R501). -/
opaque Config.drawQuad : Nat → Quad

/-- FREE: the 16-bit value of the k-th draw (RESET_MMUSR under DRAW, R501). -/
opaque Config.drawHalf : Nat → Half

/-- FREE: the victim index of the k-th draw (ATC_VICTIM = DRAW, R373). -/
opaque Config.drawVictim : Nat → Fin 22

/-- FREE: the byte at an offset of a store whose contents are the k-th draw (RAM_INIT, VIDEO_INIT under DRAW,
R502). -/
opaque Config.drawByte : Nat → Nat → Byte

/-- FREE: the choice given to the I/O oracle at the k-th draw (`draw(IO_ORACLE.Choice)`, R237). -/
opaque Config.ioChoice : Nat → Nat

/-- FREE: the I/O collaborator's answer to a read: the value and whether it is a bus error (R238). -/
opaque Config.ioRead (history : List IoEvent) (w : Width) (pa diagPc : Word) (choice : Nat) : Word × Bool

/-- FREE: the I/O collaborator's answer to a write: whether it is a bus error (R238). -/
opaque Config.ioWrite (history : List IoEvent) (w : Width) (pa v diagPc : Word) (choice : Nat) : Bool

/-! ### The configuration of `State.reset`. DESIGN CHOICE (log entry 5). -/

/-- The example configuration E of `95_test_vectors.md` section 1.1, with every option of R7 at its default. The
spec fixes no platform (R90); E is the configuration all its test vectors use. -/
def Params.exampleE : Params where
  ram := [{ base := 0x04000000, size := 0x00800000, maxSlots := 0x100, init := .fixed [], name := "RAM bank 0" }]
  totalRamSize := 0x00800000
  romSize := 0x00020000
  romImage := [(0, 0x12), (1, 0x34), (2, 0x56), (3, 0x78), (4, 0x9A), (5, 0xBC), (6, 0xDE), (7, 0xF0)]
  vmonoSize := 0x00040000
  vcolorSize := 0x00100000
  vmonoInit := .fixed []
  vcolorInit := .fixed []
  memoryMap :=
    [⟨.rom, 0x0000, 0x0002⟩, ⟨.rom, 0x0100, 0x0100⟩, ⟨.io, 0x0200, 0x0100⟩, ⟨.ram 0, 0x0400, 0x0080⟩,
     ⟨.empty, 0x0480, 0x0080⟩, ⟨.empty, 0x0500, 0x0001⟩, ⟨.videoMono, 0x0B00, 0x0004⟩]
  emptyOwner := [(0x0480, none), (0x0080, some 0), (0xFB00, none)]
  overlayRamBase := 0x047FE000
  romName := "ROM"
  vmonoName := "mono video"
  vcolorName := "color video"
  emptyName := "empty"
  busErrName := "bus error"
  ioName := "IO"
  earlyTermOffset := .pageOffsetOnly
  limitCheck := .log
  supervisorCheck := true
  ttFcFilter := false
  ttRwmSense := .source
  atcMode := .normal
  atcVictim := .fifo
  resetSrp := .fixed 0
  resetCrp := .fixed 0
  resetMmusr := .fixed 0

end Sys2Proof
end

