-- ==== Sys2Proof/Machine/Types.lean ====
section
/-! DEFINITION. The data the block computes with: the decoded registers (`10_state.md` rules R38 to R40), the ATC
entry (R41), descriptors (`30_encoding.md` rule R134), results, faults and refusals (`60_exceptions.md` rules R450,
R451, R460), diagnostic events (`10_state.md` rule R48) and the events of the host. -/

namespace Sys2Proof.Machine

/-! ### Registers -/

/-- A table level A, B, C or D: level 0, 1, 2 or 3 of `tc.table[]` (R38). -/
inductive TableLevel where
  | a
  | b
  | c
  | d
  deriving DecidableEq, Repr

/-- One thing for each of the four table levels. -/
structure PerLevel (α : Type) where
  a : α
  b : α
  c : α
  d : α
  deriving DecidableEq, Repr

/-- `table[i]`: the index field of a level in a logical address (R38). -/
structure TableField where
  mask : Word
  shift : Nat
  deriving DecidableEq, Repr

/-- Decoded TC (R38). -/
structure TcDecoded where
  enabled : Bool
  sre : Bool
  fcl : Bool
  ps : Nat
  pageMask : Word
  initShift : Nat
  width : PerLevel Nat
  table : PerLevel TableField
  present : PerLevel Bool
  lastTableIndex : TableLevel
  sumOk : Bool
  tcUnmodelled : Bool
  deriving DecidableEq, Repr

/-- Decoded root pointer (R39). -/
structure RpDecoded where
  tableAddress : Word
  dt : BitVec 2
  limit : Nat
  limitIsLower : Bool
  deriving DecidableEq, Repr

/-- Decoded transparent window (R40). `addrMask` and `fcMask` have a 1 where a bit is compared. -/
structure TtDecoded where
  enabled : Bool
  ci : Bool
  rw : Bool
  rwm : Bool
  addrBase : Word
  addrMask : Word
  fcBase : BitVec 3
  fcMask : BitVec 3
  deriving DecidableEq, Repr

/-- The six raw registers (R32) and the decoded state beside them (R37). -/
structure Registers where
  tcRaw : Word
  srpRaw : Quad
  crpRaw : Quad
  tt0Raw : Word
  tt1Raw : Word
  mmusrRaw : Half
  tc : TcDecoded
  srp : RpDecoded
  crp : RpDecoded
  tt0 : TtDecoded
  tt1 : TtDecoded
  deriving DecidableEq, Repr

/-- The names of the registers, for `DecodedRegister` events (R48). -/
inductive RegName where
  | tc
  | srp
  | crp
  | tt0
  | tt1
  | mmusr
  deriving DecidableEq, Repr

/-! ### ATC -/

/-- One entry of the ATC (R41). -/
structure AtcEntry where
  valid : Bool
  fc : BitVec 3
  ltag : Word
  ppage : Word
  b : Bool
  ci : Bool
  wp : Bool
  m : Bool
  deriving DecidableEq, Repr

/-- The entry with every field 0, as MMU reset leaves it (R41, R501). -/
def AtcEntry.zero : AtcEntry :=
  { valid := false, fc := 0, ltag := 0, ppage := 0, b := false, ci := false, wp := false, m := false }

/-! ### Descriptors and the walk -/

/-- The size of a table's descriptors, set by the DT that points to it (R131). -/
inductive DescSize where
  | four
  | eight
  deriving DecidableEq, Repr

/-- Where a descriptor stands: at the FC level or a level before the last, at the last level, or at the target of an
indirect descriptor (R130). -/
inductive DescPos where
  | nonLast
  | last
  | indirectTarget
  deriving DecidableEq, Repr

/-- A page descriptor (R134). -/
structure PageDesc where
  pg : Word
  wp : Bool
  m : Bool
  ci : Bool
  s : Bool
  deriving DecidableEq, Repr

/-- A limit on the index into a table (R303: `LimitOf`). -/
structure Limit where
  has : Bool
  limit : Nat
  lower : Bool
  deriving DecidableEq, Repr

/-- A table descriptor (R134). -/
structure TableDesc where
  ta : Word
  size : DescSize
  wp : Bool
  s : Bool
  limit : Limit
  deriving DecidableEq, Repr

/-- A decoded descriptor (R134). -/
inductive Desc where
  | invalid
  | page (p : PageDesc)
  | table (t : TableDesc)
  | indirect (ia : Word) (size : DescSize)
  deriving DecidableEq, Repr

/-- Where a walk stands, for its records and events (R451). -/
inductive Level where
  | root
  | fc
  | table (l : TableLevel)
  | indirect
  deriving DecidableEq, Repr

/-- Where the final page descriptor was found (R310: `where`). `last` is the last level or an indirect target. -/
inductive PageAt where
  | root
  | fc
  | table (l : TableLevel)
  | last
  deriving DecidableEq, Repr

/-- The table a walk looks into next, with the descriptor size and the limit that came with it, and the OR of the WP
bits fetched so far (R302 to R305). -/
structure WalkAt where
  tb : Word
  size : DescSize
  limit : Limit
  wp : Bool
  deriving DecidableEq, Repr

/-- The result of a walk (R300). -/
structure WalkResult where
  pa : Word
  ci : Bool
  wp : Bool
  m : Bool
  deriving DecidableEq, Repr

/-! ### Windows and translations -/

/-- The result of a transparent match (R341). -/
inductive TtResult where
  | noMatch
  | okMatch
  | noRead
  | noWrite
  deriving DecidableEq, Repr

/-- What answered a translation (R401). -/
inductive Via where
  | tt0
  | tt1
  | identity
  | atc
  | walk
  deriving DecidableEq, Repr

/-- The result of a translation (R401). -/
structure Translation where
  pa : Word
  ci : Bool
  wp : Bool
  m : Bool
  via : Via
  deriving DecidableEq, Repr

/-- A hit of ATC_LOOKUP (R378). -/
structure AtcHit where
  index : Nat
  pa : Word
  ci : Bool
  wp : Bool
  m : Bool
  deriving DecidableEq, Repr

/-! ### Physical space -/

/-- A backing store (R44), as host references name it (R209). -/
inductive StoreRef where
  | ram (b : Nat)
  | rom
  | videoMono
  | videoColor
  deriving DecidableEq, Repr

/-- `HostRef{store, offset}`: the stand-in for a host byte pointer (R209). -/
structure HostRef where
  store : StoreRef
  offset : Nat
  deriving DecidableEq, Repr

/-! ### Outcomes -/

/-- The fault kinds (R450). -/
inductive FaultKind where
  | busError
  | mmuInvalidDescriptor
  | mmuLimitViolation
  | mmuSupervisorViolation
  | mmuDirectionViolation
  deriving DecidableEq, Repr

/-- `Fault{kind, info}` (R13, R451): a field that does not apply is `none`. -/
structure FaultRecord where
  kind : FaultKind
  la : Option Word
  acc : Option Access
  pa : Option Word
  w : Option Width
  write : Option Bool
  level : Option Level
  descAddr : Option Word
  tt : Option (Fin 2)
  result : Option TtResult
  diagPc : Word
  deriving DecidableEq, Repr

/-- The refusal reasons (R460). -/
inductive RefuseReason where
  | illegalCommand
  | tcUnmodelled
  | pageCross
  | mirrorEnd
  | mapRange
  | config
  | snapshot
  deriving DecidableEq, Repr

/-- How a part of an operation ends (R13): with a value, a fault or a refusal. -/
inductive Ans (α : Type) where
  | ok (v : α)
  | fault (f : FaultRecord)
  | refuse (r : RefuseReason)
  deriving DecidableEq, Repr

/-- The records of QUERY_DECODED (R416). -/
structure DecodedView where
  tc : TcDecoded
  srp : RpDecoded
  crp : RpDecoded
  tt0 : TtDecoded
  tt1 : TtDecoded
  deriving DecidableEq, Repr

/-- The results of the operations (R13: `Ok(result)`). -/
inductive Result where
  /-- `Ok(unit)`. -/
  | unit
  /-- A value of a width (R12), zero-extended to 32 bits. -/
  | value (w : Width) (v : Word)
  /-- A 64-bit root pointer (R277, R278). -/
  | value64 (v : Quad)
  /-- The code of a TtResult (R341, R345, R346). -/
  | code (n : Nat)
  /-- BOUNDS_CHECK (R210). -/
  | bool (v : Bool)
  /-- TO_HOST (R209). -/
  | hostRef (r : HostRef)
  /-- WALK (R320). -/
  | walk (r : WalkResult)
  /-- TRANSLATE (R401). -/
  | translation (t : Translation)
  /-- A hit of ATC_LOOKUP (R378). -/
  | atcHit (h : AtcHit)
  /-- A miss of ATC_LOOKUP, which is an `Ok` result (R378). -/
  | atcMiss
  /-- REGION_NAME (R415). -/
  | name (s : String)
  /-- QUERY_DECODED (R416). -/
  | decoded (d : DecodedView)
  /-- SNAP_SAVE: the byte view (R420, R422). -/
  | bytes (view : List Byte)
  deriving DecidableEq, Repr

/-- The Outcome an operation returns to its caller (R13). A fault carries the value 0 where it is a `BusError` of a
read (R453); otherwise it carries none. -/
inductive Reply where
  | ok (r : Result)
  | fault (f : FaultRecord) (carried : Option Word)
  | refuse (r : RefuseReason)
  deriving DecidableEq, Repr

/-! ### Diagnostics -/

/-- The events of `diag_log` (R48), each with its `diag_pc`; a fault record holds its own. A raw 32-bit register is
logged zero-extended. -/
inductive DiagEvent where
  | configWarning (tcRaw : Word) (sum : Nat) (diagPc : Word)
  | limitViolationLogged (level : Level) (index : Word) (limit : Nat) (lower : Bool) (diagPc : Word)
  | romWriteDiscarded (w : Width) (pa v : Word) (diagPc : Word)
  | decodedRegister (reg : RegName) (raw : Quad) (diagPc : Word)
  | faultReported (f : FaultRecord)
  deriving DecidableEq, Repr

/-! ### The host's side -/

/-- What the host does to the block between commands (R470): the caller issues a command (its words and its
`diag_pc`, R15, R160), the BOOT_OVERLAY input changes (R45), the loader offers a configuration for the next cold
reset (R472, R502). -/
inductive HostEvent where
  | call (words : List Word) (diagPc : Word)
  | bootOverlay (on : Bool)
  | configure (p : Params)
  deriving DecidableEq, Repr

end Sys2Proof.Machine
end

