-- ==== Sys2Proof/Machine/Bits.lean ====
section
/-! DEFINITION. Bit fields, masks and byte order (`00_scope.md` rules R9, R10, R12; `20_memory.md` rule R82). -/

namespace Sys2Proof.Machine

/-- `v[hi:lo]` as an unsigned number, given its low bit and its number of bits (R9). -/
def bitField (v : Word) (lo n : Nat) : Nat := (v.extractLsb' lo n).toNat

/-- `mask(n) = 2^n - 1`, for 0 ≤ n ≤ 32 (R10). -/
def lowMask (n : Nat) : Word := BitVec.ofNat 32 (2 ^ n - 1)

/-- `n(w)`: how many bytes an access of a width moves (R12). -/
def widthBytes : Width → Nat
  | .byte => 1
  | .word => 2
  | .long => 4

/-- The low `8·n(w)` bits of a value (R10: zero-extension of a value of width `w`). -/
def truncateTo (w : Width) (v : Word) : Word :=
  match w with
  | .byte => v &&& 0xFF
  | .word => v &&& 0xFFFF
  | .long => v

/-- Big-endian join: the first byte is the most significant (R82). -/
def joinBytes (bs : List Byte) : Word := bs.foldl (fun acc b => (acc <<< 8) ||| b.setWidth 32) 0

/-- Big-endian split of a value of a width: the most significant byte first (R82). -/
def splitBytes (w : Width) (v : Word) : List Byte :=
  match w with
  | .byte => [v.setWidth 8]
  | .word => [v.extractLsb' 8 8, v.setWidth 8]
  | .long => [v.extractLsb' 24 8, v.extractLsb' 16 8, v.extractLsb' 8 8, v.setWidth 8]

/-- A size is a power of two (R8). -/
def isPowerOfTwo (n : Nat) : Bool := n != 0 && (n &&& (n - 1)) == 0

/-- The slot of a physical address: `pa >> 16` (R81, R201). -/
def slotOf (pa : Word) : Nat := pa.toNat / 0x10000

/-- What a level's table holds for a level. -/
def levelGet {α : Type} (t : PerLevel α) : TableLevel → α
  | .a => t.a
  | .b => t.b
  | .c => t.c
  | .d => t.d

/-- The number 0 to 3 of a table level (R38). -/
def levelIndex : TableLevel → Nat
  | .a => 0
  | .b => 1
  | .c => 2
  | .d => 3

end Sys2Proof.Machine
end

