-- ==== Sys2Proof/Machine/Operands.lean ====
section
/-! DEFINITION. The operands every translating operation takes: the access descriptor and its function code
(`00_scope.md` rule R14, `30_encoding.md` rule R120). Operand words are taken whole (R165); the decoder assembles the
64-bit ones. -/

namespace Sys2Proof.Machine

/-- `fc(acc) = (supervisor ? 4 : 0) | (data ? 1 : 2)` (R14). -/
def functionCode (acc : Access) : BitVec 3 :=
  (if acc.supervisor then 4 else 0) ||| (if acc.data then 1 else 2)

/-- The function code of a header's S and D bits (R379). -/
def functionCodeOf (sup dat : Bool) : BitVec 3 :=
  functionCode { supervisor := sup, data := dat, write := false }

/-- The access descriptor of a logical read (R405). -/
def readAccess (sup dat : Bool) : Access := { supervisor := sup, data := dat, write := false }

/-- The access descriptor of a logical write (R408). -/
def writeAccess (sup dat : Bool) : Access := { supervisor := sup, data := dat, write := true }

end Sys2Proof.Machine
end

