-- ==== Sys2Proof/Machine/Memory.lean ====
section
/-! DEFINITION. A backing store (`10_state.md` rule R44): the bytes that differ from what an unlisted offset reads
as, in one canonical form, so that equal stores are equal data. `StoreRead` and `StoreWrite` are the helpers at the
head of `41_region_handlers.md`. -/

namespace Sys2Proof.Machine

/-- A backing store. `seed = none`: an unlisted byte is 0; `seed = some k`: the store's contents at cold reset were
the k-th draw (R502). -/
structure Memory where
  seed : Option Nat
  cells : List Host.Cell
  deriving DecidableEq, Repr

/-- What an unlisted offset reads as. DESIGN CHOICE (log entry 7). -/
def blankByte (seed : Option Nat) (off : Nat) : Byte :=
  match seed with
  | none => 0
  | some k => Config.drawByte k off

/-- The byte a cell list holds at an offset, `d` where none is listed. -/
def cellsGet (cells : List Host.Cell) (off : Nat) (d : Byte) : Byte :=
  match cells with
  | [] => d
  | (k, b) :: r => if off = k then b else cellsGet r off d

/-- A cell list with the byte at an offset set: the offsets stay strictly rising, and a byte equal to `d` is not
listed. -/
def cellsSet (cells : List Host.Cell) (off : Nat) (v d : Byte) : List Host.Cell :=
  match cells with
  | [] => if v = d then [] else [(off, v)]
  | (k, b) :: r =>
    if off < k then (if v = d then (k, b) :: r else (off, v) :: (k, b) :: r)
    else if off = k then (if v = d then r else (off, v) :: r)
    else (k, b) :: cellsSet r off v d

/-- Read one byte of a store. -/
def readByte (m : Memory) (off : Nat) : Byte := cellsGet m.cells off (blankByte m.seed off)

/-- Write one byte of a store. -/
def writeByte (m : Memory) (off : Nat) (v : Byte) : Memory :=
  { m with cells := cellsSet m.cells off v (blankByte m.seed off) }

/-- The canonical form: offsets strictly rising from `lo` up, and no byte listed that the offset would read as
unlisted. -/
def cellsWf (seed : Option Nat) (lo : Nat) (cells : List Host.Cell) : Bool :=
  match cells with
  | [] => true
  | (k, b) :: r => decide (lo ≤ k) && decide (b ≠ blankByte seed k) && cellsWf seed (k + 1) r

/-- The store is in its canonical form. -/
def Memory.wf (m : Memory) : Bool := cellsWf m.seed 0 m.cells

/-- The `n` bytes from an offset up, lowest first. -/
def readBytes (m : Memory) (off : Nat) : Nat → List Byte
  | 0 => []
  | n + 1 => readByte m off :: readBytes m (off + 1) n

/-- Write bytes from an offset up, lowest first. -/
def writeBytes (m : Memory) (off : Nat) : List Byte → Memory
  | [] => m
  | b :: bs => writeBytes (writeByte m off b) (off + 1) bs

/-- A store of a size that holds an image: the image's bytes below the size, every other byte 0. -/
def imageMemory (size : Nat) (img : Image) : Memory :=
  img.foldl (fun m c => if c.1 < size then writeByte m c.1 c.2 else m) { seed := none, cells := [] }

/-- A store at cold reset: the image the configuration fixes, or the k-th draw (R502). -/
def freshMemory (size : Nat) (init : Drawable Image) (k : Nat) : Memory :=
  match init with
  | .fixed img => imageMemory size img
  | .draw => { seed := some k, cells := [] }

/-- The offset of the first byte of an access to a store with mask `mask`: `pa & M` (R84). -/
def storeOffset (mask : Nat) (pa : Word) : Nat := pa.toNat &&& mask

/-- The access runs past the end of the mirror: `o + n(w) - 1 > M` (R84). -/
def pastMirror (mask off : Nat) (w : Width) : Bool := decide (mask < off + widthBytes w - 1)

/-- `StoreRead(store, M, w, pa)`. -/
def storeRead (m : Memory) (mask : Nat) (w : Width) (pa : Word) : Ans Word :=
  if pastMirror mask (storeOffset mask pa) w then .refuse .mirrorEnd
  else .ok (joinBytes (readBytes m (storeOffset mask pa) (widthBytes w)))

/-- `StoreWrite(store, M, w, pa, v)`: the store after the write. -/
def storeWrite (m : Memory) (mask : Nat) (w : Width) (pa v : Word) : Ans Memory :=
  if pastMirror mask (storeOffset mask pa) w then .refuse .mirrorEnd
  else .ok (writeBytes m (storeOffset mask pa) (splitBytes w v))

end Sys2Proof.Machine
end

