-- ==== Sys2Proof/Machine/Runs.lean ====
section
/-! DEFINITION. Tables over the 65536 slots, written as runs (`10_state.md` rule R43, `40_dispatcher.md` rule R211).
`runsAt` reads one position; the other operations are the table operations the spec states slot by slot, and
`Sys2Proof/Laws/Runs.lean` proves that they do what it says. -/

namespace Sys2Proof.Machine

/-- What a table holds at position `k`; `d` beyond its end. -/
def runsAt {α : Type} (d : α) : Runs α → Nat → α
  | [], _ => d
  | (n, a) :: r, k => if k < n then a else runsAt d r (k - n)

/-- How many positions a table has. -/
def runsTotal {α : Type} : Runs α → Nat
  | [] => 0
  | (n, _) :: r => n + runsTotal r

/-- `n` positions holding `a`, then the table `r`: runs of the same value are joined. -/
def runsPush {α : Type} [DecidableEq α] (n : Nat) (a : α) (r : Runs α) : Runs α :=
  if n = 0 then r
  else match r with
    | [] => [(n, a)]
    | (m, b) :: r' => if a = b then (n + m, b) :: r' else (n, a) :: (m, b) :: r'

/-- The first `n` positions of `t`, then the table `rest`. -/
def runsPrefix {α : Type} [DecidableEq α] (d : α) : Runs α → Nat → Runs α → Runs α
  | [], n, rest => runsPush n d rest
  | (m, a) :: r, n, rest => if n ≤ m then runsPush n a rest else runsPush m a (runsPrefix d r (n - m) rest)

/-- The table from position `n` on. -/
def runsDrop {α : Type} : Runs α → Nat → Runs α
  | [], _ => []
  | (m, a) :: r, n => if n < m then (m - n, a) :: r else runsDrop r (n - m)

/-- The table with the positions `start .. start + count - 1` holding `a`. -/
def runsSet {α : Type} [DecidableEq α] (d : α) (t : Runs α) (start count : Nat) (a : α) : Runs α :=
  runsPrefix d t start (runsPush count a (runsDrop t (start + count)))

/-- The first `n` positions all hold `a`. -/
def runsUniform {α : Type} [DecidableEq α] (d : α) : Runs α → Nat → α → Bool
  | [], n, a => n == 0 || decide (d = a)
  | (m, b) :: r, n, a => (n == 0 || m == 0 || decide (b = a)) && (decide (n ≤ m) || runsUniform d r (n - m) a)

/-- Two tables hold the same at the first `n` positions. -/
def runsAgree {α : Type} [DecidableEq α] (d : α) : Runs α → Runs α → Nat → Bool
  | [], y, n => runsUniform d y n d
  | (m, a) :: r, y, n =>
    runsUniform d y (min m n) a && (decide (n ≤ m) || runsAgree d r (runsDrop y m) (n - m))

/-- No empty run, and no two neighbours of one value: equal tables are equal data. -/
def runsCanonical {α : Type} [DecidableEq α] : Runs α → Bool
  | [] => true
  | (n, a) :: r =>
    n != 0 && (match r with | [] => true | (_, b) :: _ => decide (a ≠ b)) && runsCanonical r

/-- The bank of a slot. -/
def bankAt (slots : Runs BankRef) (s : Nat) : BankRef := runsAt .busErr slots s

/-- MAP on the table (R211). -/
def mapSlots (slots : Runs BankRef) (start count : Nat) (b : BankRef) : Runs BankRef :=
  runsSet .busErr slots start count b

end Sys2Proof.Machine
end

