-- ==== Sys2Proof/Machine/Layout.lean ====
section
/-! DEFINITION. The configuration at cold reset: the preconditions of `00_scope.md` rule R8, the dispatch table of
`70_reset_and_hazards.md` rule R503 with its checks, and the stores of rule R502. -/

namespace Sys2Proof.Machine

/-- R8: every bank size is a power of two. -/
def sizesOk (p : Params) : Bool :=
  p.ram.all (fun r => isPowerOfTwo r.size) && isPowerOfTwo p.romSize
    && isPowerOfTwo p.vmonoSize && isPowerOfTwo p.vcolorSize

/-- R503, the first four requirements, for one RAM bank. -/
def ramBankOk (r : RamBank) : Bool :=
  decide (r.base &&& 0xFFFF = 0) && decide (0x10000 ≤ r.size) && isPowerOfTwo r.size
    && decide (r.size ≤ r.maxSlots * 0x10000) && decide (slotOf r.base + r.maxSlots ≤ numSlots)

/-- The slot allocations of two RAM banks have no slot in common (R503). -/
def allocationsApart (r q : RamBank) : Bool :=
  decide (slotOf r.base + r.maxSlots ≤ slotOf q.base) || decide (slotOf q.base + q.maxSlots ≤ slotOf r.base)

/-- The slot allocations are pairwise disjoint (R503). -/
def allApart : List RamBank → Bool
  | [] => true
  | r :: rs => rs.all (allocationsApart r) && allApart rs

/-- A bank that MAP and MEMORY_MAP may name: any, but `Ram(b)` only for a declared bank (R164). -/
def legalBank (p : Params) : BankRef → Bool
  | .ram b => decide (b < p.ram.length)
  | _ => true

/-- R503: every MEMORY_MAP entry stays inside the table and names a legal bank. -/
def mapCallsOk (p : Params) : Bool :=
  p.memoryMap.all fun c => decide (c.start + c.count ≤ numSlots) && legalBank p c.bank

/-- R503: every slot starts as BusErr, then the MEMORY_MAP entries in order, the last writer winning. -/
def buildSlots (p : Params) : Runs BankRef :=
  p.memoryMap.foldl (fun t c => mapSlots t c.start c.count c.bank) [(numSlots, .busErr)]

/-- R503: a RAM bank's allocation holds `Ram(b)` for its size and `Empty` for the rest. -/
def allocationFilled (slots : Runs BankRef) (b : Nat) (r : RamBank) : Bool :=
  let first := slotOf r.base
  let n := r.size / 0x10000
  runsUniform .busErr (runsDrop slots first) n (.ram b)
    && runsUniform .busErr (runsDrop slots (first + n)) (r.maxSlots - n) .empty

/-- R503: `allocationFilled` for every bank, counted from `b` up. -/
def allocationsFilled (slots : Runs BankRef) : Nat → List RamBank → Bool
  | _, [] => true
  | b, r :: rs => allocationFilled slots b r && allocationsFilled slots (b + 1) rs

/-- The bank in whose allocation each slot lies, if any, for the banks from number `b` up. -/
def allocationOwners : Nat → List RamBank → Runs (Option Nat)
  | _, [] => [(numSlots, none)]
  | b, r :: rs => runsSet none (allocationOwners (b + 1) rs) (slotOf r.base) r.maxSlots (some b)

/-- R503: at every slot that is `Empty`, EMPTY_OWNER is the bank in whose allocation the slot lies, and none
otherwise. -/
def emptyOwnersOk : Runs BankRef → Runs (Option Nat) → Runs (Option Nat) → Bool
  | [], _, _ => true
  | (n, b) :: r, owner, alloc =>
    (decide (b ≠ .empty) || runsAgree none owner alloc n) && emptyOwnersOk r (runsDrop owner n) (runsDrop alloc n)

/-- The configuration satisfies R8 and every requirement of R503. -/
def configOk (p : Params) : Bool :=
  sizesOk p && p.ram.all ramBankOk && allApart p.ram && mapCallsOk p
    && allocationsFilled (buildSlots p) 0 p.ram
    && emptyOwnersOk (buildSlots p) p.emptyOwner (allocationOwners 0 p.ram)

/-- EMPTY_OWNER(slot) (R7). -/
def emptyOwnerAt (p : Params) (s : Nat) : Option Nat := runsAt none p.emptyOwner s

/-- The backing stores (R44). -/
structure Stores where
  ram : List Memory
  rom : Memory
  vmono : Memory
  vcolor : Memory
  deriving DecidableEq, Repr

/-- The RAM stores at cold reset, one for each bank; bank `i` of the list takes draw `k + i` where its contents are
drawn (R502). -/
def freshRam : Nat → List RamBank → List Memory
  | _, [] => []
  | k, r :: rs => freshMemory r.size r.init k :: freshRam (k + 1) rs

/-- The stores at cold reset (R502), taking draws from `k` up. -/
def freshStores (p : Params) (k : Nat) : Stores :=
  { ram := freshRam k p.ram
    rom := imageMemory p.romSize p.romImage
    vmono := freshMemory p.vmonoSize p.vmonoInit (k + p.ram.length)
    vcolor := freshMemory p.vcolorSize p.vcolorInit (k + p.ram.length + 1) }

/-- How many draws `freshStores` sets aside. -/
def storeDraws (p : Params) : Nat := p.ram.length + 2

/-- The value of a drawable 64-bit reset parameter (R501). -/
def drawnQuad (d : Drawable Quad) (k : Nat) : Quad :=
  match d with
  | .fixed v => v
  | .draw => Config.drawQuad k

/-- The value of a drawable 16-bit reset parameter (R501). -/
def drawnHalf (d : Drawable Half) (k : Nat) : Half :=
  match d with
  | .fixed v => v
  | .draw => Config.drawHalf k

end Sys2Proof.Machine
end

