-- ==== Sys2Proof/Machine/Flags.lean ====
section
/-! DEFINITION. The status outputs of the block. It has no condition codes (`10_state.md` rule R46); what it has are
the flags `sum_ok` and `tc_unmodelled` of a decoded TC (`42_register_decode.md` rule R266) and the numeric codes of
its results and faults (R341, R401, R450). -/

namespace Sys2Proof.Machine

/-- `init_shift` plus the four index widths (R266). -/
def indexBits (initShift : Nat) (w : PerLevel Nat) : Nat := initShift + w.a + w.b + w.c + w.d

/-- `sum` of R266: the page bits and the index bits. -/
def tcSum (ps initShift : Nat) (w : PerLevel Nat) : Nat := ps + indexBits initShift w

/-- `tc.sum_ok` (R266). -/
def tcSumOk (ps initShift : Nat) (w : PerLevel Nat) : Bool := tcSum ps initShift w == 32

/-- `tc.tc_unmodelled`: PS below 8, or shifts that go below zero (R266). -/
def tcUnmodelledFlag (ps initShift : Nat) (w : PerLevel Nat) : Bool :=
  decide (ps < 8) || decide (32 < indexBits initShift w)

/-- The code of a TtResult (R341). -/
def ttResultCode : TtResult → Nat
  | .noMatch => 0
  | .okMatch => 1
  | .noRead => 2
  | .noWrite => 3

/-- The code of `via` (R401). -/
def viaCode : Via → Nat
  | .tt0 => 0
  | .tt1 => 1
  | .identity => 2
  | .atc => 3
  | .walk => 4

/-- The code of a fault kind (R450). -/
def faultCode : FaultKind → Nat
  | .busError => 1
  | .mmuInvalidDescriptor => 2
  | .mmuLimitViolation => 3
  | .mmuSupervisorViolation => 4
  | .mmuDirectionViolation => 5

end Sys2Proof.Machine
end

