-- ==== Sys2Proof/Machine/RegDecode.lean ====
section
/-! DEFINITION. The three pure decode functions of the MMU registers (`42_register_decode.md` section 1, field
positions of `10_state.md` rules R33 to R35). -/

namespace Sys2Proof.Machine

/-- The mask and shift of a level of width `w`, where `used` is `init_shift` plus the widths down to and including
this level: its shift is `32 - used`, and both are 0 where that is below zero (R263). -/
def tableField (used w : Nat) : TableField :=
  if 32 < used then { mask := 0, shift := 0 }
  else { mask := lowMask w <<< (32 - used), shift := 32 - used }

/-- The masks and shifts of the four levels, accumulated from the most significant end (R263). -/
def tableFields (initShift : Nat) (w : PerLevel Nat) : PerLevel TableField :=
  { a := tableField (initShift + w.a) w.a
    b := tableField (initShift + w.a + w.b) w.b
    c := tableField (initShift + w.a + w.b + w.c) w.c
    d := tableField (initShift + w.a + w.b + w.c + w.d) w.d }

/-- `tc.last_table_index`: the last level of non-zero width, level 0 if there is none (R264). -/
def lastTableLevel (w : PerLevel Nat) : TableLevel :=
  if w.d ≠ 0 then .d else if w.c ≠ 0 then .c else if w.b ≠ 0 then .b else .a

/-- `tc.present`: the levels of non-zero width, and level 0 if there is none (R265). -/
def presentLevels (w : PerLevel Nat) : PerLevel Bool :=
  { a := w.a != 0 || (w.b == 0 && w.c == 0 && w.d == 0)
    b := w.b != 0
    c := w.c != 0
    d := w.d != 0 }

/-- The four index widths of a raw TC: TIA, TIB, TIC, TID (R260). -/
def tcWidths (raw : Word) : PerLevel Nat :=
  { a := bitField raw 12 4, b := bitField raw 8 4, c := bitField raw 4 4, d := bitField raw 0 4 }

/-- PS, bits 23:20 (R260). -/
def tcPs (raw : Word) : Nat := bitField raw 20 4

/-- IS, bits 19:16 (R260). -/
def tcIs (raw : Word) : Nat := bitField raw 16 4

/-- `decode_tc` (R260 to R266). -/
def decodeTc (raw : Word) : TcDecoded :=
  { enabled := raw.getLsbD 31
    sre := raw.getLsbD 25
    fcl := raw.getLsbD 24
    ps := tcPs raw
    pageMask := lowMask (tcPs raw)
    initShift := tcIs raw
    width := tcWidths raw
    table := tableFields (tcIs raw) (tcWidths raw)
    present := presentLevels (tcWidths raw)
    lastTableIndex := lastTableLevel (tcWidths raw)
    sumOk := tcSumOk (tcPs raw) (tcIs raw) (tcWidths raw)
    tcUnmodelled := tcUnmodelledFlag (tcPs raw) (tcIs raw) (tcWidths raw) }

/-- The `sum` that a `ConfigWarning` event reports (R266, R270). -/
def tcSumOf (raw : Word) : Nat := tcSum (tcPs raw) (tcIs raw) (tcWidths raw)

/-- `decode_rp` (R267). -/
def decodeRp (raw : Quad) : RpDecoded :=
  { tableAddress := raw.setWidth 32 &&& 0xFFFFFFF0
    dt := raw.extractLsb' 32 2
    limit := (raw.extractLsb' 48 15).toNat
    limitIsLower := raw.getLsbD 63 }

/-- `decode_tt` (R268). -/
def decodeTt (raw : Word) : TtDecoded :=
  { enabled := raw.getLsbD 15
    ci := raw.getLsbD 10
    rw := raw.getLsbD 9
    rwm := raw.getLsbD 8
    addrBase := raw &&& 0xFF000000
    addrMask := ~~~(raw <<< 8) &&& 0xFF000000
    fcBase := raw.extractLsb' 4 3
    fcMask := ~~~(raw.extractLsb' 0 3) }

/-- The registers after MMU reset, with SRP, CRP and MMUSR at the values given (R501). -/
def registersAtReset (srp crp : Quad) (mmusr : Half) : Registers :=
  { tcRaw := 0, srpRaw := srp, crpRaw := crp, tt0Raw := 0, tt1Raw := 0, mmusrRaw := mmusr
    tc := decodeTc 0, srp := decodeRp srp, crp := decodeRp crp, tt0 := decodeTt 0, tt1 := decodeTt 0 }

end Sys2Proof.Machine
end

