-- ==== Sys2Proof/Machine/State.lean ====
section
/-! DEFINITION. The state of the block as plain data: every element of `10_state.md` rule R50, the parameters and
inputs of the step, and the model's own bookkeeping (which INVENTORY.md lists apart). -/

namespace Sys2Proof.Machine

/-- The state. The first eight fields are R50's; `params` to `diagPc` are the parameters and inputs of the step that
R50 says are not state and that stand here so that a step has one argument (log entries 4, 9, 10); the last three
are the model's own (log entries 1, 6, 16). -/
structure State where
  /-- The raw and decoded registers (R32 to R40). -/
  regs : Registers
  /-- `ATC[0..21]` (R41). -/
  atc : List AtcEntry
  /-- `atc_next` (R41). -/
  atcNext : Fin 22
  /-- `Slot[0..65535]` (R43). -/
  slots : Runs BankRef
  /-- The backing stores (R44). -/
  stores : Stores
  /-- `io_history` (R47), oldest first. -/
  ioHistory : List IoEvent
  /-- `diag_log` (R48), oldest first. -/
  diagLog : List DiagEvent
  /-- The refusal mark (R49). -/
  refused : Bool
  /-- The parameters in force (R7), read at the last cold reset (R502). -/
  params : Params
  /-- The parameters the configuration loader offers for the next cold reset (R472, R502). -/
  loader : Params
  /-- The BOOT_OVERLAY input (R45, R226). -/
  bootOverlay : Bool
  /-- The `diag_pc` of the command being run (R15). -/
  diagPc : Word
  /-- The host events not yet taken, next first. -/
  inbox : List HostEvent
  /-- How many free inputs `draw(T)` have been taken (R11). -/
  draws : Nat
  /-- The Outcome of the last command (R13). -/
  reply : Reply
  deriving DecidableEq, Repr

/-- Why a step stops with a fault. The faults of the spec (R450) are no such stop: an operation RETURNS them and the
run goes on (R13, R455), so they are a `Reply`. -/
inductive Fault where
  /-- Raised by `step` when the inbox is empty: the caller has issued no command, so there is nothing to do (R31,
  R400). SAFE: no claim about a step can use it but that there is none. -/
  | noCommand
  deriving DecidableEq, Repr

/-- Why a step has no meaning. The refusals of the spec (R460) are no such stop: they mark the state `refused` and
the run goes on (R13, R49), so they are a `Reply`. -/
inductive Refusal where
  /-- Raised by an arm of `exec` whose instruction has no meaning yet; no arm does. SAFE: the run stops. -/
  | notModelled (mnemonic : String)
  deriving DecidableEq, Repr

/-- The state right after COLD_RESET under the example configuration E, which is the start state E0 of
`95_test_vectors.md` section 1.1 (R504: a model starts from the state after COLD_RESET). The configuration is a
DESIGN CHOICE (log entry 5); nothing is in the inbox (log entry 1). -/
def State.reset : State :=
  { regs := registersAtReset (drawnQuad Params.exampleE.resetSrp 0) (drawnQuad Params.exampleE.resetCrp 0)
      (drawnHalf Params.exampleE.resetMmusr 0)
    atc := List.replicate atcEntries AtcEntry.zero
    atcNext := 0
    slots := buildSlots Params.exampleE
    stores := freshStores Params.exampleE 0
    ioHistory := []
    diagLog := []
    refused := false
    params := Params.exampleE
    loader := Params.exampleE
    bootOverlay := false
    diagPc := 0
    inbox := []
    draws := 0
    reply := .ok .unit }

end Sys2Proof.Machine
end

