-- ==== Sys2Proof/Machine/Ops.lean ====
section
/-! DEFINITION. The operations every meaning is written with: one setter for each part of the state, the sequencing of
the parts of an operation, and `deliver`, the one way an operation ends (`00_scope.md` rule R13). The block takes no
exception and returns from none (`60_exceptions.md` rules R455, R456): a fault is a value that `deliver` returns to
the caller, after the one `FaultReported` event of rule R452; a refusal sets the mark of rule R49. -/

namespace Sys2Proof.Machine

/-! ### Setters -/

/-- Write the registers. -/
def State.setRegs (s : State) (r : Registers) : State := { s with regs := r }

/-- Write the ATC entries. -/
def State.setAtc (s : State) (l : List AtcEntry) : State := { s with atc := l }

/-- Write `atc_next`. -/
def State.setAtcNext (s : State) (i : Fin 22) : State := { s with atcNext := i }

/-- Write the dispatch table. -/
def State.setSlots (s : State) (t : Runs BankRef) : State := { s with slots := t }

/-- Write the backing stores. -/
def State.setStores (s : State) (m : Stores) : State := { s with stores := m }

/-- Append to `io_history` (R47). -/
def State.appendIo (s : State) (e : IoEvent) : State := { s with ioHistory := s.ioHistory ++ [e] }

/-- `log(event)` (R11, R48). -/
def State.log (s : State) (e : DiagEvent) : State := { s with diagLog := s.diagLog ++ [e] }

/-- Set the refusal mark (R49). -/
def State.markRefused (s : State) : State := { s with refused := true }

/-- Empty both histories and clear the refusal mark (R502). -/
def State.clearHistory (s : State) : State := { s with ioHistory := [], diagLog := [], refused := false }

/-- Put other parameters in force (R502). -/
def State.setParams (s : State) (p : Params) : State := { s with params := p }

/-- The loader offers other parameters (R472). -/
def State.setLoader (s : State) (p : Params) : State := { s with loader := p }

/-- Change the BOOT_OVERLAY input (R45). -/
def State.setBootOverlay (s : State) (on : Bool) : State := { s with bootOverlay := on }

/-- Set the diagnostic PC of the command being run (R15). -/
def State.setDiagPc (s : State) (pc : Word) : State := { s with diagPc := pc }

/-- Replace the inbox. -/
def State.setInbox (s : State) (l : List HostEvent) : State := { s with inbox := l }

/-- Count `n` draws as taken. -/
def State.takeDraws (s : State) (n : Nat) : State := { s with draws := s.draws + n }

/-- Return an Outcome to the caller. -/
def State.setReply (s : State) (r : Reply) : State := { s with reply := r }

/-! ### Sequencing -/

/-- One part of an operation after another: a fault or a refusal of the first ends the operation, and the state
changes made before it stand (R13, R453, R461). -/
def andThen {α β : Type} (x : Ans α × State) (f : α → State → Ans β × State) : Ans β × State :=
  match x with
  | (.ok a, s) => f a s
  | (.fault e, s) => (.fault e, s)
  | (.refuse r, s) => (.refuse r, s)

/-- Turn the value of a part into the value of the whole. -/
def mapAns {α β : Type} (f : α → β) (x : Ans α × State) : Ans β × State :=
  andThen x fun a s => (.ok (f a), s)

/-- Change the fault record of a part. -/
def mapFault {α : Type} (f : FaultRecord → FaultRecord) (x : Ans α × State) : Ans α × State :=
  match x with
  | (.fault e, s) => (.fault (f e), s)
  | (.ok a, s) => (.ok a, s)
  | (.refuse r, s) => (.refuse r, s)

/-! ### Fault records (R451) -/

/-- A record of a kind with no field filled but `diag_pc`. -/
def bareFault (k : FaultKind) (pc : Word) : FaultRecord :=
  { kind := k, la := none, acc := none, pa := none, w := none, write := none, level := none, descAddr := none
    tt := none, result := none, diagPc := pc }

/-- The record of a bank fault: `{pa, w, read}` or `{pa, w, write}` (R230, R235). -/
def bankFault (pa : Word) (w : Width) (write : Bool) (pc : Word) : FaultRecord :=
  { bareFault .busError pc with pa := some pa, w := some w, write := some write }

/-- The record of a walk fault: `{la, acc, level, desc_addr}` (R300). -/
def walkFault (k : FaultKind) (la : Word) (acc : Access) (level : Level) (desc : Option Word) (pc : Word) :
    FaultRecord :=
  { bareFault k pc with la := some la, acc := some acc, level := some level, descAddr := desc }

/-- The record of a bus error at a descriptor fetch: a walk fault whose `pa` is its `desc_addr` (R305, R451).
DEDUCED (log entry 12): `w` and `write` are none, and the address is that of the long word fetched. -/
def fetchFault (la : Word) (acc : Access) (level : Level) (a : Word) (pc : Word) : FaultRecord :=
  { walkFault .busError la acc level (some a) pc with pa := some a }

/-- The record of a direction violation: `{la, acc, tt, result}` (R347). -/
def windowFault (la : Word) (acc : Access) (n : Fin 2) (r : TtResult) (pc : Word) : FaultRecord :=
  { bareFault .mmuDirectionViolation pc with la := some la, acc := some acc, tt := some n, result := some r }

/-- The bank's record with `la` and `acc` added, for a logical access whose physical stage faults (R451). -/
def withLogical (la : Word) (acc : Access) (f : FaultRecord) : FaultRecord :=
  { f with la := some la, acc := some acc }

/-! ### How an operation ends -/

/-- What a fault of a read carries: the value 0 for a bus error (R13, R453). DEDUCED (log entry 11): other kinds carry
no value. -/
def readCarries (f : FaultRecord) : Option Word := if f.kind = .busError then some 0 else none

/-- What a fault of any other operation carries: nothing. -/
def carriesNone (_ : FaultRecord) : Option Word := none

/-- End an operation (R13): return `Ok`; or report the fault once, as the last state change, and return it (R452); or
set the refusal mark and return the refusal (R49, R461). -/
def deliver (carried : FaultRecord → Option Word) (x : Ans Result × State) : Host.Outcome State Fault Refusal :=
  match x with
  | (.ok r, s) => .next (s.setReply (.ok r))
  | (.fault f, s) => .next ((s.log (.faultReported f)).setReply (.fault f (carried f)))
  | (.refuse r, s) => .next (s.markRefused.setReply (.refuse r))

/-- End an operation that is no read. -/
def deliverPlain (x : Ans Result × State) : Host.Outcome State Fault Refusal := deliver carriesNone x

/-- End a read of a width. -/
def deliverRead (w : Width) (x : Ans Word × State) : Host.Outcome State Fault Refusal :=
  deliver readCarries (mapAns (Result.value w) x)

/-- End an operation that returned `Ok(result)` in a state. -/
def deliverOk (r : Result) (s : State) : Host.Outcome State Fault Refusal := deliverPlain (.ok r, s)

end Sys2Proof.Machine
end

