-- ==== Sys2Proof/Machine/Banks.lean ====
section
/-! DEFINITION. The region handlers (`41_region_handlers.md`) and the dispatcher's routing to them
(`40_dispatcher.md` rules R201, R202): what a read, a write, a host view and a bounds check do in each bank. -/

namespace Sys2Proof.Machine

/-! ### RAM (R220 to R222) -/

/-- `BankRead(Ram(b), w, pa)` (R220). A bank the configuration does not declare is refused: no slot of a reachable
state names one (log entry 14). -/
def ramRead (b : Nat) (w : Width) (pa : Word) (s : State) : Ans Word × State :=
  match s.params.ram[b]?, s.stores.ram[b]? with
  | some bank, some m => (storeRead m (bank.size - 1) w pa, s)
  | _, _ => (.refuse .config, s)

/-- Replace the store of RAM bank `b`. -/
def State.setRamStore (s : State) (b : Nat) (m : Memory) : State :=
  s.setStores { s.stores with ram := s.stores.ram.set b m }

/-- Put a store that a write answered into the state. -/
def commitStore (s : State) (put : Memory → State) (x : Ans Memory) : Ans Unit × State :=
  match x with
  | .ok m => (.ok (), put m)
  | .fault f => (.fault f, s)
  | .refuse r => (.refuse r, s)

/-- `BankWrite(Ram(b), w, pa, v)` (R221). -/
def ramWrite (b : Nat) (w : Width) (pa v : Word) (s : State) : Ans Unit × State :=
  match s.params.ram[b]?, s.stores.ram[b]? with
  | some bank, some m => commitStore s (s.setRamStore b) (storeWrite m (bank.size - 1) w pa v)
  | _, _ => (.refuse .config, s)

/-! ### ROM (R224 to R226) -/

/-- `OverlayRead(w, pa)` (R226): the whole read goes to RAM at OVERLAY_RAM_BASE + pa. -/
def overlayRead (w : Width) (pa : Word) (s : State) : Ans Word × State :=
  match bankAt s.slots (slotOf (s.params.overlayRamBase + pa)) with
  | .ram b => ramRead b w (s.params.overlayRamBase + pa) s
  | _ => (.refuse .config, s)

/-- `BankRead(Rom, w, pa)` (R224). -/
def romRead (w : Width) (pa : Word) (s : State) : Ans Word × State :=
  if s.bootOverlay = true ∧ pa.toNat < overlaySize then overlayRead w pa s
  else (storeRead s.stores.rom (s.params.romSize - 1) w pa, s)

/-- `BankWrite(Rom, w, pa, v)`: logged and discarded (R225). -/
def romWrite (w : Width) (pa v : Word) (s : State) : Ans Unit × State :=
  (.ok (), s.log (.romWriteDiscarded w pa v s.diagPc))

/-! ### Video (R228) -/

/-- `BankRead(VideoMono, w, pa)`. -/
def vmonoRead (w : Width) (pa : Word) (s : State) : Ans Word × State :=
  (storeRead s.stores.vmono (s.params.vmonoSize - 1) w pa, s)

/-- `BankWrite(VideoMono, w, pa, v)`. -/
def vmonoWrite (w : Width) (pa v : Word) (s : State) : Ans Unit × State :=
  commitStore s (fun m => s.setStores { s.stores with vmono := m })
    (storeWrite s.stores.vmono (s.params.vmonoSize - 1) w pa v)

/-- `BankRead(VideoColor, w, pa)`. -/
def vcolorRead (w : Width) (pa : Word) (s : State) : Ans Word × State :=
  (storeRead s.stores.vcolor (s.params.vcolorSize - 1) w pa, s)

/-- `BankWrite(VideoColor, w, pa, v)`. -/
def vcolorWrite (w : Width) (pa v : Word) (s : State) : Ans Unit × State :=
  commitStore s (fun m => s.setStores { s.stores with vcolor := m })
    (storeWrite s.stores.vcolor (s.params.vcolorSize - 1) w pa v)

/-! ### Empty (R230 to R233) -/

/-- `BankRead(Empty, w, pa)`: a Long read answers its own address, the other widths a bus error (R230, R231). -/
def emptyRead (w : Width) (pa : Word) (s : State) : Ans Word × State :=
  match w with
  | .long => (.ok pa, s)
  | .byte | .word => (.fault (bankFault pa w false s.diagPc), s)

/-- Where an Empty long write lands in its owner's store: `(pa - RAM_BASE) mod RAM_SIZE` (R233). -/
def emptyLanding (bank : RamBank) (pa : Word) : Nat := (pa - bank.base).toNat % bank.size

/-- The Long write of the Empty bank into the store of its owner `b` (R233). -/
def emptyRedirect (b : Nat) (pa v : Word) (s : State) : Ans Unit × State :=
  match s.params.ram[b]?, s.stores.ram[b]? with
  | some bank, some m =>
    if bank.size - 1 < emptyLanding bank pa + 3 then (.refuse .mirrorEnd, s)
    else (.ok (), s.setRamStore b (writeBytes m (emptyLanding bank pa) (splitBytes .long v)))
  | _, _ => (.refuse .config, s)

/-- `BankWrite(Empty, w, pa, v)` (R232, R233). -/
def emptyWrite (w : Width) (pa v : Word) (s : State) : Ans Unit × State :=
  match w with
  | .byte | .word => (.fault (bankFault pa w true s.diagPc), s)
  | .long =>
    match emptyOwnerAt s.params (slotOf pa) with
    | none => (.fault (bankFault pa .long true s.diagPc), s)
    | some b => emptyRedirect b pa v s

/-! ### I/O (R237 to R239) -/

/-- The I/O collaborator's answer to a read in a state (R238): the value cut to the width, and the bus error. -/
def ioReadAnswer (w : Width) (pa : Word) (s : State) : Word × Bool :=
  let a := Config.ioRead s.ioHistory w pa s.diagPc (Config.ioChoice s.draws)
  (truncateTo w a.1, a.2)

/-- The I/O collaborator's answer to a write in a state (R238). -/
def ioWriteAnswer (w : Width) (pa v : Word) (s : State) : Bool :=
  Config.ioWrite s.ioHistory w pa v s.diagPc (Config.ioChoice s.draws)

/-- The state after an I/O read: the access is recorded and its choice drawn (R237). -/
def ioReadState (w : Width) (pa : Word) (s : State) : State :=
  (s.takeDraws 1).appendIo (.read w pa (ioReadAnswer w pa s).1 (ioReadAnswer w pa s).2 s.diagPc)

/-- The state after an I/O write (R239). -/
def ioWriteState (w : Width) (pa v : Word) (s : State) : State :=
  (s.takeDraws 1).appendIo (.write w pa v (ioWriteAnswer w pa v s) s.diagPc)

/-- `BankRead(Io, w, pa)` (R237). -/
def ioRead (w : Width) (pa : Word) (s : State) : Ans Word × State :=
  if (ioReadAnswer w pa s).2 then (.fault (bankFault pa w false s.diagPc), ioReadState w pa s)
  else (.ok (ioReadAnswer w pa s).1, ioReadState w pa s)

/-- `BankWrite(Io, w, pa, v)` (R239). -/
def ioWrite (w : Width) (pa v : Word) (s : State) : Ans Unit × State :=
  if ioWriteAnswer w pa v s then (.fault (bankFault pa w true s.diagPc), ioWriteState w pa v s)
  else (.ok (), ioWriteState w pa v s)

/-! ### The arbiter (R241) -/

/-- `BankRead(bank, w, pa)`. -/
def bankRead (bank : BankRef) (w : Width) (pa : Word) (s : State) : Ans Word × State :=
  match bank with
  | .ram b => ramRead b w pa s
  | .rom => romRead w pa s
  | .videoMono => vmonoRead w pa s
  | .videoColor => vcolorRead w pa s
  | .empty => emptyRead w pa s
  | .busErr => (.fault (bankFault pa w false s.diagPc), s)
  | .io => ioRead w pa s

/-- `BankWrite(bank, w, pa, v)`. -/
def bankWrite (bank : BankRef) (w : Width) (pa v : Word) (s : State) : Ans Unit × State :=
  match bank with
  | .ram b => ramWrite b w pa v s
  | .rom => romWrite w pa v s
  | .videoMono => vmonoWrite w pa v s
  | .videoColor => vcolorWrite w pa v s
  | .empty => emptyWrite w pa v s
  | .busErr => (.fault (bankFault pa w true s.diagPc), s)
  | .io => ioWrite w pa v s

/-- `PhysRead(w, pa)`: the bank of the address's slot, the address unmodified (R201). -/
def physRead (w : Width) (pa : Word) (s : State) : Ans Word × State :=
  bankRead (bankAt s.slots (slotOf pa)) w pa s

/-- `PhysWrite(w, pa, v)` (R202). -/
def physWrite (w : Width) (pa v : Word) (s : State) : Ans Unit × State :=
  bankWrite (bankAt s.slots (slotOf pa)) w pa v s

/-- A physical write of a width, as a result. -/
def physStore (w : Width) (pa v : Word) (s : State) : Ans Result × State :=
  mapAns (fun _ => Result.unit) (physWrite w pa v s)

/-! ### Host view, bounds and names -/

/-- `BankToHost(bank, pa)` (R222, R227, R229, R234, R236, R240). DEDUCED (log entry 13): the fault record has no field
but `diag_pc`. -/
def bankToHost (bank : BankRef) (pa : Word) (s : State) : Ans HostRef :=
  match bank with
  | .ram b =>
    match s.params.ram[b]? with
    | some r => .ok { store := .ram b, offset := storeOffset (r.size - 1) pa }
    | none => .refuse .config
  | .rom => .ok { store := .rom, offset := storeOffset (s.params.romSize - 1) pa }
  | .videoMono => .ok { store := .videoMono, offset := storeOffset (s.params.vmonoSize - 1) pa }
  | .videoColor => .ok { store := .videoColor, offset := storeOffset (s.params.vcolorSize - 1) pa }
  | .empty | .busErr | .io => .fault (bareFault .busError s.diagPc)

/-- `BankBounds(bank, pa, size)`: no form reads `pa` (R222, R227, R229, R234, R236, R240). -/
def bankBounds (bank : BankRef) (size : Word) (p : Params) : Bool :=
  match bank with
  | .ram _ => decide (size.toNat < p.totalRamSize)
  | .rom => decide (size.toNat < p.romSize)
  | .videoMono => decide (size.toNat < p.vmonoSize)
  | .videoColor => decide (size.toNat < p.vcolorSize)
  | .empty | .busErr | .io => false

/-- `REGION_NAME[bank]` (R415). -/
def bankName (bank : BankRef) (p : Params) : String :=
  match bank with
  | .ram b =>
    match p.ram[b]? with
    | some r => r.name
    | none => ""
  | .rom => p.romName
  | .videoMono => p.vmonoName
  | .videoColor => p.vcolorName
  | .empty => p.emptyName
  | .busErr => p.busErrName
  | .io => p.ioName

end Sys2Proof.Machine
end

