-- ==== Sys2Proof/Machine/Physical.lean ====
section
/-! DEFINITION. The physical commands (`40_dispatcher.md` rules R203 to R211). -/

namespace Sys2Proof.Machine

/-- PREAD8 (R203). -/
def execPread8 (pa : Word) (s : State) : Host.Outcome State Fault Refusal :=
  deliverRead .byte (physRead .byte pa s)

/-- PREAD16 (R204). -/
def execPread16 (pa : Word) (s : State) : Host.Outcome State Fault Refusal :=
  deliverRead .word (physRead .word pa s)

/-- PREAD32 (R205). -/
def execPread32 (pa : Word) (s : State) : Host.Outcome State Fault Refusal :=
  deliverRead .long (physRead .long pa s)

/-- PWRITE8 (R206). -/
def execPwrite8 (pa : Word) (v : Byte) (s : State) : Host.Outcome State Fault Refusal :=
  deliverPlain (physStore .byte pa (v.setWidth 32) s)

/-- PWRITE16 (R207). -/
def execPwrite16 (pa : Word) (v : Half) (s : State) : Host.Outcome State Fault Refusal :=
  deliverPlain (physStore .word pa (v.setWidth 32) s)

/-- PWRITE32 (R208). -/
def execPwrite32 (pa v : Word) (s : State) : Host.Outcome State Fault Refusal :=
  deliverPlain (physStore .long pa v s)

/-- TO_HOST (R209): reads no store. -/
def execToHost (pa : Word) (s : State) : Host.Outcome State Fault Refusal :=
  deliverPlain (mapAns Result.hostRef (bankToHost (bankAt s.slots (slotOf pa)) pa s, s))

/-- BOUNDS_CHECK (R210). -/
def execBoundsCheck (pa size : Word) (s : State) : Host.Outcome State Fault Refusal :=
  deliverOk (.bool (bankBounds (bankAt s.slots (slotOf pa)) size s.params)) s

/-- MAP's table change (R211), after the legality of its bank code (R163, R164, priority 1 of R454). -/
def mapRange (bank : BankRef) (start count : Word) (s : State) : Ans Result × State :=
  if legalBank s.params bank = false then (.refuse .illegalCommand, s)
  else if numSlots < start.toNat + count.toNat then (.refuse .mapRange, s)
  else (.ok .unit, s.setSlots (mapSlots s.slots start.toNat count.toNat bank))

/-- MAP (R211). -/
def execMap (bank : BankRef) (start count : Word) (s : State) : Host.Outcome State Fault Refusal :=
  deliverPlain (mapRange bank start count s)

end Sys2Proof.Machine
end

