-- ==== Sys2Proof/Machine/Descriptors.lean ====
section
/-! DEFINITION. Page-table descriptors (`30_encoding.md` section 2): their decoding by position and size. Reserved and
unused bits are not read (rule R136). -/

namespace Sys2Proof.Machine

/-- DT of a descriptor: bits 1:0 of its first long word (R130). -/
def descType (d0 : Word) : Nat := bitField d0 0 2

/-- The size that a DT of 2 or 3 gives what it points to (R131). -/
def sizeOfDt (dt : Nat) : DescSize := if dt = 2 then .four else .eight

/-- Bytes of a descriptor (R131). -/
def sizeBytes : DescSize → Word
  | .four => 4
  | .eight => 8

/-- The limit that comes with a short table descriptor: none (R132). -/
def noLimit : Limit := { has := false, limit := 0, lower := false }

/-- The page descriptor in a short descriptor `d` (R132): it has no S bit. -/
def shortPage (d : Word) : PageDesc :=
  { pg := d &&& 0xFFFFFF00, wp := d.getLsbD 2, m := d.getLsbD 4, ci := d.getLsbD 6, s := false }

/-- The page descriptor in a long descriptor `d0`, `d1` (R133). -/
def longPage (d0 d1 : Word) : PageDesc :=
  { pg := d1 &&& 0xFFFFFF00, wp := d0.getLsbD 2, m := d0.getLsbD 4, ci := d0.getLsbD 6, s := d0.getLsbD 8 }

/-- The table descriptor in a short descriptor (R132): no S bit, no limit. -/
def shortTable (d : Word) : TableDesc :=
  { ta := d &&& 0xFFFFFFF0, size := sizeOfDt (descType d), wp := d.getLsbD 2, s := false, limit := noLimit }

/-- The table descriptor in a long descriptor (R133). -/
def longTable (d0 d1 : Word) : TableDesc :=
  { ta := d1 &&& 0xFFFFFFF0, size := sizeOfDt (descType d0), wp := d0.getLsbD 2, s := d0.getLsbD 8
    limit := { has := true, limit := bitField d0 16 15, lower := d0.getLsbD 31 } }

/-- Decode by DT and position (R130, R134), given the page, table and indirect forms of the descriptor. -/
def descOf (dt : Nat) (pos : DescPos) (page : PageDesc) (table : TableDesc) (ia : Word) : Desc :=
  if dt = 0 then .invalid
  else if dt = 1 then .page page
  else match pos with
    | .nonLast => .table table
    | .last => .indirect ia (sizeOfDt dt)
    | .indirectTarget => .invalid

/-- Decode a short descriptor (R132). -/
def decodeShort (d : Word) (pos : DescPos) : Desc :=
  descOf (descType d) pos (shortPage d) (shortTable d) (d &&& 0xFFFFFFFC)

/-- Decode a long descriptor (R133). -/
def decodeLong (d0 d1 : Word) (pos : DescPos) : Desc :=
  descOf (descType d0) pos (longPage d0 d1) (longTable d0 d1) (d1 &&& 0xFFFFFFFC)

/-- The S bit the supervisor check reads: that of a long table or page descriptor (R313). -/
def descSupervisor : Desc → Bool
  | .page p => p.s
  | .table t => t.s
  | .invalid | .indirect _ _ => false

/-- The physical address of descriptor `idx` of a table (R135). -/
def descAddress (tb : Word) (size : DescSize) (idx : Word) : Word := tb + idx * sizeBytes size

end Sys2Proof.Machine
end

