-- ==== Sys2Proof/Machine/Walk.lean ====
section
/-! DEFINITION. The table-walk engine (`43_table_walk.md`). It reads the registers and physical memory; through its
fetches it changes only `io_history` and `diag_log` (rule R300). -/

namespace Sys2Proof.Machine

/-- `FetchLong(a, level)` (R305): a bus error of the bank ends the walk with its own record. -/
def fetchLong (la : Word) (acc : Access) (level : Level) (a : Word) (s : State) : Ans Word × State :=
  mapFault (fun _ => fetchFault la acc level a s.diagPc) (physRead .long a s)

/-- Fetch a descriptor of a size and decode it by its position (R131, R135, R305). -/
def fetchDesc (la : Word) (acc : Access) (level : Level) (a : Word) (size : DescSize) (pos : DescPos) (s : State) :
    Ans Desc × State :=
  andThen (fetchLong la acc level a s) fun d0 s1 =>
    match size with
    | .four => (.ok (decodeShort d0 pos), s1)
    | .eight => andThen (fetchLong la acc level (a + 4) s1) fun d1 s2 => (.ok (decodeLong d0 d1 pos), s2)

/-- An index beyond a limit (R312): below a lower limit, above an upper one. -/
def limitViolated (idx : Word) (lim : Limit) : Bool :=
  lim.has && (if lim.lower then decide (idx.toNat < lim.limit) else decide (lim.limit < idx.toNat))

/-- `LimitCheck(idx, lim, level)`, where `a` is the address the descriptor would be fetched from (R312). -/
def limitCheck (la : Word) (acc : Access) (level : Level) (idx : Word) (lim : Limit) (a : Word) (s : State) :
    Ans Unit × State :=
  if limitViolated idx lim then
    match s.params.limitCheck with
    | .off => (.ok (), s)
    | .log => (.ok (), s.log (.limitViolationLogged level idx lim.limit lim.lower s.diagPc))
    | .fault => (.fault (walkFault .mmuLimitViolation la acc level (some a) s.diagPc), s)
  else (.ok (), s)

/-- `SupervisorCheck(d, level, a)` (R313). -/
def supervisorCheck (la : Word) (acc : Access) (level : Level) (d : Desc) (a : Word) (s : State) :
    Ans Unit × State :=
  if s.params.supervisorCheck = true ∧ descSupervisor d = true ∧ acc.supervisor = false then
    (.fault (walkFault .mmuSupervisorViolation la acc level (some a) s.diagPc), s)
  else (.ok (), s)

/-- The fault of an invalid descriptor (R305, R309). -/
def invalidDescriptor (la : Word) (acc : Access) (level : Level) (a : Option Word) (s : State) : FaultRecord :=
  walkFault .mmuInvalidDescriptor la acc level a s.diagPc

/-- `FetchCheck` (R305): limit, fetch, type and S bit, in the order of R454. -/
def fetchCheck (la : Word) (acc : Access) (at' : WalkAt) (idx : Word) (pos : DescPos) (level : Level) (s : State) :
    Ans Desc × State :=
  andThen (limitCheck la acc level idx at'.limit (descAddress at'.tb at'.size idx) s) fun _ s1 =>
  andThen (fetchDesc la acc level (descAddress at'.tb at'.size idx) at'.size pos s1) fun d s2 =>
    if d = .invalid then
      (.fault (invalidDescriptor la acc level (some (descAddress at'.tb at'.size idx)) s2), s2)
    else andThen (supervisorCheck la acc level d (descAddress at'.tb at'.size idx) s2) fun _ s3 => (.ok d, s3)

/-- `FetchIndirect(ia, size)` (R309): the target must be a page descriptor; no limit applies. -/
def fetchIndirect (la : Word) (acc : Access) (ia : Word) (size : DescSize) (s : State) : Ans PageDesc × State :=
  andThen (fetchDesc la acc .indirect ia size .indirectTarget s) fun d s1 =>
    match d with
    | .page p => andThen (supervisorCheck la acc .indirect (.page p) ia s1) fun _ s2 => (.ok p, s2)
    | .invalid | .table _ | .indirect _ _ => (.fault (invalidDescriptor la acc .indirect (some ia) s1), s1)

/-! ### The physical address -/

/-- A level below the place where the page descriptor was found: one the walk did not visit (R311). -/
def belowPage (whereFound : PageAt) (l : TableLevel) : Bool :=
  match whereFound with
  | .root | .fc => true
  | .table k => decide (levelIndex k < levelIndex l)
  | .last => false

/-- The mask of a level in RemainingMask: that of a present level not visited, 0 for any other (R311). -/
def remainingField (tc : TcDecoded) (whereFound : PageAt) (l : TableLevel) : Word :=
  if levelGet tc.present l && belowPage whereFound l then (levelGet tc.table l).mask else 0

/-- `RemainingMask(where)` (R311). -/
def remainingMask (tc : TcDecoded) (whereFound : PageAt) : Word :=
  remainingField tc whereFound .a ||| remainingField tc whereFound .b
    ||| remainingField tc whereFound .c ||| remainingField tc whereFound .d

/-- The page address and the page offset, composed (R310, C1). -/
def composePage (pageMask page la : Word) : Word := (page &&& ~~~pageMask) ||| (la &&& pageMask)

/-- The physical address of a walk (R310). -/
def finishAddress (tc : TcDecoded) (opt : EarlyTermOffset) (whereFound : PageAt) (pg la : Word) : Word :=
  if opt = .pageOffsetOnly ∨ whereFound = .last then composePage tc.pageMask pg la
  else ((pg &&& ~~~tc.pageMask) + (la &&& remainingMask tc whereFound &&& ~~~tc.pageMask))
    ||| (la &&& tc.pageMask)

/-- `Finish(d, where)`: the walk's result (R310). `wp` is the OR of the WP bits fetched, the final page's among them
(R314). -/
def finishWalk (s : State) (la : Word) (whereFound : PageAt) (p : PageDesc) (wp : Bool) : WalkResult :=
  { pa := finishAddress s.regs.tc s.params.earlyTermOffset whereFound p.pg la, ci := p.ci, wp := wp, m := p.m }

/-! ### The levels -/

/-- The index of a level (R304). -/
def levelIdx (tc : TcDecoded) (l : TableLevel) (la : Word) : Word :=
  (la &&& (levelGet tc.table l).mask) >>> (levelGet tc.table l).shift

/-- A level is visited: it is present and not beyond the last (R304). -/
def visitsLevel (tc : TcDecoded) (l : TableLevel) : Bool :=
  levelGet tc.present l && decide (levelIndex l ≤ levelIndex tc.lastTableIndex)

/-- The levels a walk visits, in order (R304). -/
def visitedLevels (tc : TcDecoded) : List TableLevel := [TableLevel.a, .b, .c, .d].filter (visitsLevel tc)

/-- The last level (R304, R307): a page descriptor, or an indirect one. -/
def walkLast (la : Word) (acc : Access) (l : TableLevel) (at' : WalkAt) (s : State) : Ans WalkResult × State :=
  andThen (fetchCheck la acc at' (levelIdx s.regs.tc l la) .last (.table l) s) fun d s1 =>
    match d with
    | .page p => (.ok (finishWalk s1 la .last p (at'.wp || p.wp)), s1)
    | .indirect ia size =>
      andThen (fetchIndirect la acc ia size s1) fun p s2 =>
        (.ok (finishWalk s2 la .last p (at'.wp || p.wp)), s2)
    | .invalid | .table _ => (.fault (invalidDescriptor la acc (.table l) none s1), s1)

/-- Where the walk stands after a table descriptor (R303, R304). -/
def nextTable (at' : WalkAt) (t : TableDesc) : WalkAt :=
  { tb := t.ta, size := t.size, limit := t.limit, wp := at'.wp || t.wp }

/-- The levels that remain, in order (R304). A TC that a decode gives has its last level among those it visits
(R264, R265); for any other the list runs out and the walk is refused (log entry 14). -/
def walkLevels (la : Word) (acc : Access) : List TableLevel → WalkAt → State → Ans WalkResult × State
  | [], _, s => (.refuse .tcUnmodelled, s)
  | l :: ls, at', s =>
    if l = s.regs.tc.lastTableIndex then walkLast la acc l at' s
    else andThen (fetchCheck la acc at' (levelIdx s.regs.tc l la) .nonLast (.table l) s) fun d s1 =>
      match d with
      | .page p => (.ok (finishWalk s1 la (.table l) p (at'.wp || p.wp)), s1)
      | .table t => walkLevels la acc ls (nextTable at' t) s1
      | .invalid | .indirect _ _ => (.fault (invalidDescriptor la acc (.table l) none s1), s1)

/-- The function-code level, then the table levels (R303, R304). -/
def walkTables (la : Word) (acc : Access) (at' : WalkAt) (s : State) : Ans WalkResult × State :=
  if s.regs.tc.fcl = false then walkLevels la acc (visitedLevels s.regs.tc) at' s
  else andThen (fetchCheck la acc at' ((functionCode acc).setWidth 32) .nonLast .fc s) fun d s1 =>
    match d with
    | .page p => (.ok (finishWalk s1 la .fc p (at'.wp || p.wp)), s1)
    | .table t => walkLevels la acc (visitedLevels s1.regs.tc) (nextTable at' t) s1
    | .invalid | .indirect _ _ => (.fault (invalidDescriptor la acc .fc none s1), s1)

/-- Root selection (R301). -/
def rootPointer (acc : Access) (r : Registers) : RpDecoded :=
  if r.tc.sre = true ∧ acc.supervisor = true then r.srp else r.crp

/-- The first table of a root pointer of type 2 or 3 (R302). -/
def rootTable (rp : RpDecoded) : WalkAt :=
  { tb := rp.tableAddress, size := sizeOfDt rp.dt.toNat
    limit := { has := true, limit := rp.limit, lower := rp.limitIsLower }, wp := false }

/-- The page descriptor that a root pointer of type 1 stands for (R302). -/
def rootPage (rp : RpDecoded) : PageDesc :=
  { pg := rp.tableAddress, wp := false, m := false, ci := false, s := false }

/-- `Walk(la, acc)` (R300 to R315). -/
def walk (la : Word) (acc : Access) (s : State) : Ans WalkResult × State :=
  let rp := rootPointer acc s.regs
  if rp.dt = 0 then (.fault (invalidDescriptor la acc .root none s), s)
  else if rp.dt = 1 then (.ok (finishWalk s la .root (rootPage rp) false), s)
  else walkTables la acc (rootTable rp) s

/-- WALK, before its result is returned (R320): it runs whatever `tc.enabled` is, and leaves the ATC and the windows
alone. -/
def walkCommand (acc : Access) (la : Word) (s : State) : Ans Result × State :=
  if s.regs.tc.tcUnmodelled then (.refuse .tcUnmodelled, s) else mapAns Result.walk (walk la acc s)

/-- WALK (R320). -/
def execWalk (acc : Access) (la : Word) (s : State) : Host.Outcome State Fault Refusal :=
  deliverPlain (walkCommand acc la s)

end Sys2Proof.Machine
end

