-- ==== Sys2Proof/Machine/Atc.lean ====
section
/-! DEFINITION. The address translation cache (`45_atc.md`). -/

namespace Sys2Proof.Machine

/-- An entry covers a page and function code under a page mask (R371, R377). -/
def entryCovers (pageMask : Word) (fc : BitVec 3) (la : Word) (e : AtcEntry) : Bool :=
  e.valid && decide (e.fc = fc) && decide (e.ltag &&& ~~~pageMask = la &&& ~~~pageMask)

/-- `AtcLookup(la, acc)`: the lowest index that hits (R371). -/
def atcFind (la : Word) (acc : Access) (s : State) : Option Nat :=
  match s.params.atcMode with
  | .alwaysMiss => none
  | .normal => s.atc.findIdx? (entryCovers s.regs.tc.pageMask (functionCode acc) la)

/-- Entry `i` of the ATC; the zero entry beyond its end. -/
def atcEntryAt (s : State) (i : Nat) : AtcEntry := s.atc.getD i AtcEntry.zero

/-- `AtcCompose(i, la)` (R371). -/
def atcCompose (s : State) (i : Nat) (la : Word) : Translation :=
  { pa := composePage s.regs.tc.pageMask (atcEntryAt s i).ppage la
    ci := (atcEntryAt s i).ci, wp := (atcEntryAt s i).wp, m := (atcEntryAt s i).m, via := .atc }

/-- `Victim()` (R373): the lowest free entry; else, under DRAW, a drawn index, or else `atc_next`, which moves on. -/
def atcVictim (s : State) : Nat × State :=
  match s.atc.findIdx? (fun e => !e.valid) with
  | some i => (i, s)
  | none =>
    match s.params.atcVictim with
    | .draw => ((Config.drawVictim s.draws).val, s.takeDraws 1)
    | .fifo => (s.atcNext.val, s.setAtcNext (s.atcNext + 1))

/-- The entry an insertion makes (R372). -/
def newEntry (pageMask la : Word) (fc : BitVec 3) (pa : Word) (ci wp m : Bool) : AtcEntry :=
  { valid := true, fc := fc, ltag := la &&& ~~~pageMask, ppage := pa &&& ~~~pageMask, b := false
    ci := ci, wp := wp, m := m }

/-- `AtcInsert(la, f, pa, ci, wp, m)` (R372). -/
def atcInsert (la : Word) (fc : BitVec 3) (pa : Word) (ci wp m : Bool) (s : State) : State :=
  match s.params.atcMode with
  | .alwaysMiss => s
  | .normal =>
    let v := atcVictim s
    v.2.setAtc (v.2.atc.set v.1 (newEntry s.regs.tc.pageMask la fc pa ci wp m))

/-- Invalidate the entries that a test picks; the other fields of an entry stay (R41, R375 to R377). -/
def atcFlush (pick : AtcEntry → Bool) (s : State) : State :=
  s.setAtc (s.atc.map fun e => if pick e then { e with valid := false } else e)

/-- FLUSH_ALL (R375). -/
def execFlushAll (s : State) : Host.Outcome State Fault Refusal :=
  deliverOk .unit (atcFlush (fun _ => true) s)

/-- FLUSH_FC (R376). -/
def execFlushFc (fc : BitVec 3) (s : State) : Host.Outcome State Fault Refusal :=
  deliverOk .unit (atcFlush (fun e => e.valid && decide (e.fc = fc)) s)

/-- FLUSH_PAGE (R377), under the current page mask. -/
def execFlushPage (fc : BitVec 3) (la : Word) (s : State) : Host.Outcome State Fault Refusal :=
  deliverOk .unit (atcFlush (entryCovers s.regs.tc.pageMask fc la) s)

/-- The result of ATC_LOOKUP (R378). -/
def lookupResult (la : Word) (acc : Access) (s : State) : Result :=
  match atcFind la acc s with
  | none => .atcMiss
  | some i =>
    .atcHit { index := i, pa := (atcCompose s i la).pa, ci := (atcCompose s i la).ci
              wp := (atcCompose s i la).wp, m := (atcCompose s i la).m }

/-- ATC_LOOKUP, before its result is returned (R378): WR has no effect. -/
def lookupCommand (acc : Access) (la : Word) (s : State) : Ans Result × State :=
  if s.regs.tc.tcUnmodelled then (.refuse .tcUnmodelled, s) else (.ok (lookupResult la acc s), s)

/-- ATC_LOOKUP (R378). -/
def execAtcLookup (acc : Access) (la : Word) (s : State) : Host.Outcome State Fault Refusal :=
  deliverPlain (lookupCommand acc la s)

/-- ATC_INSERT, before its result is returned (R379). -/
def insertCommand (sup dat ci wp m : Bool) (la pa : Word) (s : State) : Ans Result × State :=
  if s.regs.tc.tcUnmodelled then (.refuse .tcUnmodelled, s)
  else (.ok .unit, atcInsert la (functionCodeOf sup dat) pa ci wp m s)

/-- ATC_INSERT (R379). -/
def execAtcInsert (sup dat ci wp m : Bool) (la pa : Word) (s : State) : Host.Outcome State Fault Refusal :=
  deliverPlain (insertCommand sup dat ci wp m la pa s)

end Sys2Proof.Machine
end

