-- ==== Sys2Proof/Machine/Transparent.lean ====
section
/-! DEFINITION. The transparent translation matcher (`44_transparent_translation.md`). -/

namespace Sys2Proof.Machine

/-- Whether the direction is checked: RWM, in the sense that TT_RWM_SENSE chooses (R342). -/
def directionChecked (p : Params) (tt : TtDecoded) : Bool :=
  match p.ttRwmSense with
  | .source => tt.rwm
  | .mc68030 => !tt.rwm

/-- `Match(tt, la, acc)` (R342). -/
def ttMatch (p : Params) (tt : TtDecoded) (la : Word) (acc : Access) : TtResult :=
  if tt.enabled = false then .noMatch
  else if (la ^^^ tt.addrBase) &&& tt.addrMask ≠ 0 then .noMatch
  else if p.ttFcFilter = true ∧ (functionCode acc ^^^ tt.fcBase) &&& tt.fcMask ≠ 0 then .noMatch
  else if directionChecked p tt = false then .okMatch
  else if tt.rw = true then (if acc.write then .noWrite else .okMatch)
  else (if acc.write then .okMatch else .noRead)

/-- What the windows answer together: nothing, or the result of the first window that matches (R344). -/
inductive TtOutcome where
  | miss
  | hit (t : Translation)
  | violation (f : FaultRecord)
  deriving DecidableEq, Repr

/-- What one window's result means for the pipeline; `.miss` leaves the decision to what comes next (R347). -/
def ttOutcome (n : Fin 2) (via : Via) (tt : TtDecoded) (la : Word) (acc : Access) (pc : Word) :
    TtResult → TtOutcome
  | .noMatch => .miss
  | .okMatch => .hit { pa := la, ci := tt.ci, wp := false, m := false, via := via }
  | .noRead => .violation (windowFault la acc n .noRead pc)
  | .noWrite => .violation (windowFault la acc n .noWrite pc)

/-- `TtResolve(la, acc)`: TT0, and TT1 only where TT0 gives no match (R344, R347). -/
def ttResolve (la : Word) (acc : Access) (s : State) : TtOutcome :=
  match ttOutcome 0 .tt0 s.regs.tt0 la acc s.diagPc (ttMatch s.params s.regs.tt0 la acc) with
  | .miss => ttOutcome 1 .tt1 s.regs.tt1 la acc s.diagPc (ttMatch s.params s.regs.tt1 la acc)
  | o => o

/-- TT0_MATCH (R345): the code of the result, never a fault. -/
def execTt0Match (acc : Access) (la : Word) (s : State) : Host.Outcome State Fault Refusal :=
  deliverOk (.code (ttResultCode (ttMatch s.params s.regs.tt0 la acc))) s

/-- TT1_MATCH (R346): TT1 alone. -/
def execTt1Match (acc : Access) (la : Word) (s : State) : Host.Outcome State Fault Refusal :=
  deliverOk (.code (ttResultCode (ttMatch s.params s.regs.tt1 la acc))) s

end Sys2Proof.Machine
end

