-- ==== Sys2Proof/Machine/Pipeline.lean ====
section
/-! DEFINITION. The translation pipeline and the logical accesses (`46_translated_access.md` rules R401 to R410). -/

namespace Sys2Proof.Machine

/-- The identity translation, with translation off (R401). -/
def identityTranslation (la : Word) : Translation :=
  { pa := la, ci := false, wp := false, m := false, via := .identity }

/-- The translation a walk's result stands for (R401). -/
def walkTranslation (r : WalkResult) : Translation := { pa := r.pa, ci := r.ci, wp := r.wp, m := r.m, via := .walk }

/-- The paged part of `Translate` up to its insertion: the ATC, else a walk (R401, R402). -/
def locatePaged (la : Word) (acc : Access) (s : State) : Ans Translation × State :=
  match atcFind la acc s with
  | some i => (.ok (atcCompose s i la), s)
  | none => mapAns walkTranslation (walk la acc s)

/-- `Translate(la, acc)` up to its insertion (R401): the order of the steps is normative. -/
def locate (la : Word) (acc : Access) (s : State) : Ans Translation × State :=
  match ttResolve la acc s with
  | .hit t => (.ok t, s)
  | .violation f => (.fault f, s)
  | .miss =>
    if s.regs.tc.enabled = false then (.ok (identityTranslation la), s)
    else if s.regs.tc.tcUnmodelled then (.refuse .tcUnmodelled, s)
    else locatePaged la acc s

/-- The insertion of `Translate`: that of a translation by a walk, and none for any other (R401, R402). -/
def fillAtc (la : Word) (acc : Access) (t : Translation) (s : State) : State :=
  if t.via = .walk then atcInsert la (functionCode acc) t.pa t.ci t.wp t.m s else s

/-- `Translate(la, acc)` (R401). -/
def translate (la : Word) (acc : Access) (s : State) : Ans Translation × State :=
  andThen (locate la acc s) fun t s1 => (.ok t, fillAtc la acc t s1)

/-- TRANSLATE (R401). -/
def execTranslate (acc : Access) (la : Word) (s : State) : Host.Outcome State Fault Refusal :=
  deliverPlain (mapAns Result.translation (translate la acc s))

/-- `Crosses(w, la)`: the last byte lies in another page (R403). -/
def crosses (pageMask : Word) (w : Width) (la : Word) : Bool :=
  decide (la &&& ~~~pageMask ≠ (la + BitVec.ofNat 32 (widthBytes w - 1)) &&& ~~~pageMask)

/-- `PagedFor(la, acc)` (R403). -/
def pagedFor (la : Word) (acc : Access) (s : State) : Bool :=
  decide (ttResolve la acc s = .miss) && s.regs.tc.enabled && !s.regs.tc.tcUnmodelled

/-- A paged access that crosses a page (R403). -/
def pageCross (w : Width) (la : Word) (acc : Access) (s : State) : Bool :=
  pagedFor la acc s && crosses s.regs.tc.pageMask w la

/-- The physical access of a logical one, after its translation. A refusal of it is checked before the insertion, which
then does not happen (R13, R461; log entry 19); an access that succeeds or faults finds the insertion made (R453). -/
def physicalStage {α : Type} (la : Word) (acc : Access) (t : Translation) (access : State → Ans α × State)
    (s : State) : Ans α × State :=
  match (access s).1 with
  | .refuse r => (.refuse r, s)
  | .ok _ | .fault _ => mapFault (withLogical la acc) (access (fillAtc la acc t s))

/-- `LRead(w, la, acc)`: the physical stage's fault record gains `la` and `acc` (R451). -/
def logicalRead (w : Width) (la : Word) (acc : Access) (s : State) : Ans Word × State :=
  if pageCross w la acc s then (.refuse .pageCross, s)
  else andThen (locate la acc s) fun t s1 => physicalStage la acc t (physRead w t.pa) s1

/-- `LWrite(w, la, acc, v)`. -/
def logicalWrite (w : Width) (la : Word) (acc : Access) (v : Word) (s : State) : Ans Result × State :=
  if pageCross w la acc s then (.refuse .pageCross, s)
  else andThen (locate la acc s) fun t s1 => physicalStage la acc t (physStore w t.pa v) s1

/-- LREAD8 (R405). -/
def execLread8 (sup dat : Bool) (la : Word) (s : State) : Host.Outcome State Fault Refusal :=
  deliverRead .byte (logicalRead .byte la (readAccess sup dat) s)

/-- LREAD16 (R406). -/
def execLread16 (sup dat : Bool) (la : Word) (s : State) : Host.Outcome State Fault Refusal :=
  deliverRead .word (logicalRead .word la (readAccess sup dat) s)

/-- LREAD32 (R407). -/
def execLread32 (sup dat : Bool) (la : Word) (s : State) : Host.Outcome State Fault Refusal :=
  deliverRead .long (logicalRead .long la (readAccess sup dat) s)

/-- LWRITE8 (R408). -/
def execLwrite8 (sup dat : Bool) (la : Word) (v : Byte) (s : State) : Host.Outcome State Fault Refusal :=
  deliverPlain (logicalWrite .byte la (writeAccess sup dat) (v.setWidth 32) s)

/-- LWRITE16 (R409). -/
def execLwrite16 (sup dat : Bool) (la : Word) (v : Half) (s : State) : Host.Outcome State Fault Refusal :=
  deliverPlain (logicalWrite .word la (writeAccess sup dat) (v.setWidth 32) s)

/-- LWRITE32 (R410). -/
def execLwrite32 (sup dat : Bool) (la v : Word) (s : State) : Host.Outcome State Fault Refusal :=
  deliverPlain (logicalWrite .long la (writeAccess sup dat) v s)

end Sys2Proof.Machine
end

