-- ==== Sys2Proof/Machine/RegisterOps.lean ====
section
/-! DEFINITION. The register commands (`42_register_decode.md` sections 2 and 3). A write stores the value as written,
decodes it at once and logs it; none changes the ATC. -/

namespace Sys2Proof.Machine

/-- Log a register write (R48, R270 to R275). -/
def logWrite (s : State) (r : RegName) (raw : Quad) : State := s.log (.decodedRegister r raw s.diagPc)

/-- Log a TC write, and a `ConfigWarning` where `sum_ok` is false (R270). -/
def logTcWrite (s : State) (v : Word) : State :=
  if (decodeTc v).sumOk then logWrite s .tc (v.setWidth 64)
  else (logWrite s .tc (v.setWidth 64)).log (.configWarning v (tcSumOf v) s.diagPc)

/-- WR_TC (R270). -/
def execWrTc (v : Word) (s : State) : Host.Outcome State Fault Refusal :=
  deliverOk .unit (logTcWrite (s.setRegs { s.regs with tcRaw := v, tc := decodeTc v }) v)

/-- WR_SRP (R271). -/
def execWrSrp (v : Quad) (s : State) : Host.Outcome State Fault Refusal :=
  deliverOk .unit (logWrite (s.setRegs { s.regs with srpRaw := v, srp := decodeRp v }) .srp v)

/-- WR_CRP (R272). -/
def execWrCrp (v : Quad) (s : State) : Host.Outcome State Fault Refusal :=
  deliverOk .unit (logWrite (s.setRegs { s.regs with crpRaw := v, crp := decodeRp v }) .crp v)

/-- WR_TT0 (R273). -/
def execWrTt0 (v : Word) (s : State) : Host.Outcome State Fault Refusal :=
  deliverOk .unit (logWrite (s.setRegs { s.regs with tt0Raw := v, tt0 := decodeTt v }) .tt0 (v.setWidth 64))

/-- WR_TT1 (R274). -/
def execWrTt1 (v : Word) (s : State) : Host.Outcome State Fault Refusal :=
  deliverOk .unit (logWrite (s.setRegs { s.regs with tt1Raw := v, tt1 := decodeTt v }) .tt1 (v.setWidth 64))

/-- WR_MMUSR (R275): stored and never interpreted (R36). -/
def execWrMmusr (v : Half) (s : State) : Host.Outcome State Fault Refusal :=
  deliverOk .unit (logWrite (s.setRegs { s.regs with mmusrRaw := v }) .mmusr (v.setWidth 64))

/-- RD_TC (R276). -/
def execRdTc (s : State) : Host.Outcome State Fault Refusal := deliverOk (.value .long s.regs.tcRaw) s

/-- RD_SRP (R277). -/
def execRdSrp (s : State) : Host.Outcome State Fault Refusal := deliverOk (.value64 s.regs.srpRaw) s

/-- RD_CRP (R278). -/
def execRdCrp (s : State) : Host.Outcome State Fault Refusal := deliverOk (.value64 s.regs.crpRaw) s

/-- RD_TT0 (R279). -/
def execRdTt0 (s : State) : Host.Outcome State Fault Refusal := deliverOk (.value .long s.regs.tt0Raw) s

/-- RD_TT1 (R280). -/
def execRdTt1 (s : State) : Host.Outcome State Fault Refusal := deliverOk (.value .long s.regs.tt1Raw) s

/-- RD_MMUSR (R281): zero-extended to 32 bits. -/
def execRdMmusr (s : State) : Host.Outcome State Fault Refusal :=
  deliverOk (.value .long (s.regs.mmusrRaw.setWidth 32)) s

end Sys2Proof.Machine
end

