-- ==== Sys2Proof/Machine/Reset.lean ====
section
/-! DEFINITION. The two resets (`70_reset_and_hazards.md` rules R501 to R503). -/

namespace Sys2Proof.Machine

/-- The ATC after MMU reset: every field of every entry 0 (R501). -/
def zeroAtc : List AtcEntry := List.replicate atcEntries AtcEntry.zero

/-- `MmuReset()` (R501). Three draws are set aside, for SRP, CRP and MMUSR in this order (log entry 6). -/
def mmuReset (s : State) : State :=
  (((s.setRegs (registersAtReset (drawnQuad s.params.resetSrp s.draws) (drawnQuad s.params.resetCrp (s.draws + 1))
      (drawnHalf s.params.resetMmusr (s.draws + 2)))).setAtc zeroAtc).setAtcNext 0).takeDraws 3

/-- MMU_RESET (R501). -/
def execMmuReset (s : State) : Host.Outcome State Fault Refusal := deliverOk .unit (mmuReset s)

/-- `ColdReset()` (R502) with the configuration the loader offers, which is read at this point. The refusals are
checked before any state change. -/
def coldReset (s : State) : Ans Result × State :=
  if configOk s.loader then
    (.ok .unit,
      mmuReset (((((s.setParams s.loader).setSlots (buildSlots s.loader)).setStores
        (freshStores s.loader s.draws)).takeDraws (storeDraws s.loader)).clearHistory))
  else (.refuse .config, s)

/-- COLD_RESET (R502). -/
def execColdReset (s : State) : Host.Outcome State Fault Refusal := deliverPlain (coldReset s)

end Sys2Proof.Machine
end

