-- ==== Sys2Proof/Machine/Snapshot.lean ====
section
/-! DEFINITION. Introspection and the snapshot view (`46_translated_access.md` rules R415 to R423, `30_encoding.md`
rule R150). -/

namespace Sys2Proof.Machine

/-- REGION_NAME (R415). -/
def execRegionName (pa : Word) (s : State) : Host.Outcome State Fault Refusal :=
  deliverOk (.name (bankName (bankAt s.slots (slotOf pa)) s.params)) s

/-- The decoded registers (R416). -/
def decodedView (r : Registers) : DecodedView :=
  { tc := r.tc, srp := r.srp, crp := r.crp, tt0 := r.tt0, tt1 := r.tt1 }

/-- QUERY_DECODED (R416). -/
def execQueryDecoded (s : State) : Host.Outcome State Fault Refusal := deliverOk (.decoded (decodedView s.regs)) s

/-! ### The packed ATC entry (R150) -/

/-- One bit as a word, at a place. -/
def bitAt (b : Bool) (n : Nat) : Word := if b then 1 <<< n else 0

/-- `logical_tag` (R150). -/
def packTag (e : AtcEntry) : Word := (e.ltag &&& 0xFFFFFF00) ||| (e.fc.setWidth 32 <<< 1) ||| bitAt e.valid 0

/-- `physical_entry` (R150). -/
def packEntry (e : AtcEntry) : Word :=
  (e.ppage &&& 0xFFFFFF00) ||| bitAt e.m 3 ||| bitAt e.wp 2 ||| bitAt e.ci 1 ||| bitAt e.b 0

/-- Unpack the two words of an entry (R150). -/
def unpackEntry (tag phys : Word) : AtcEntry :=
  { valid := tag.getLsbD 0, fc := tag.extractLsb' 1 3, ltag := tag &&& 0xFFFFFF00, ppage := phys &&& 0xFFFFFF00
    b := phys.getLsbD 0, ci := phys.getLsbD 1, wp := phys.getLsbD 2, m := phys.getLsbD 3 }

/-- The two words of every entry, in order (R420). -/
def packAll : List AtcEntry → List Word
  | [] => []
  | e :: es => packTag e :: packEntry e :: packAll es

/-- The entries of a list of word pairs (R421). -/
def unpackAll : List Word → List AtcEntry
  | t :: p :: r => unpackEntry t p :: unpackAll r
  | _ => []

/-! ### The view (R420) -/

/-- The ten words before the ATC entries (R420). -/
def viewHead (r : Registers) : List Word :=
  [snapshotVersion, r.tcRaw, r.srpRaw.extractLsb' 32 32, r.srpRaw.setWidth 32, r.crpRaw.extractLsb' 32 32,
   r.crpRaw.setWidth 32, r.tt0Raw, r.tt1Raw, r.mmusrRaw.setWidth 32, BitVec.ofNat 32 atcEntries]

/-- The view as 32-bit words. -/
def viewWords (s : State) : List Word := viewHead s.regs ++ packAll s.atc

/-- The view as bytes, every field big-endian (R420). -/
def viewBytes (s : State) : List Byte := (viewWords s).flatMap (splitBytes .long)

/-- SNAP_SAVE (R422). -/
def execSnapSave (s : State) : Host.Outcome State Fault Refusal := deliverOk (.bytes (viewBytes s)) s

/-! ### Restore (R421) -/

/-- Word `i` of a view. -/
def viewWord (view : List Word) (i : Nat) : Word := view.getD i 0

/-- A 64-bit field of a view, upper long word first (R420). -/
def viewQuad (view : List Word) (i : Nat) : Quad :=
  ((viewWord view i).setWidth 64 <<< 32) ||| (viewWord view (i + 1)).setWidth 64

/-- A view that Restore accepts: its length, version and count, MMUSR's upper half and bits 7:4 of every entry word
(R421). -/
def viewOk (view : List Word) : Bool :=
  decide (view.length = 54) && decide (viewWord view 0 = snapshotVersion)
    && decide (viewWord view 9 = BitVec.ofNat 32 atcEntries) && decide (viewWord view 8 &&& 0xFFFF0000 = 0)
    && (view.drop 10).all (fun w => decide (w &&& 0xF0 = 0))

/-- The registers of a view, decoded again (R421). -/
def viewRegisters (view : List Word) : Registers :=
  { tcRaw := viewWord view 1, srpRaw := viewQuad view 2, crpRaw := viewQuad view 4
    tt0Raw := viewWord view 6, tt1Raw := viewWord view 7, mmusrRaw := (viewWord view 8).setWidth 16
    tc := decodeTc (viewWord view 1), srp := decodeRp (viewQuad view 2), crp := decodeRp (viewQuad view 4)
    tt0 := decodeTt (viewWord view 6), tt1 := decodeTt (viewWord view 7) }

/-- `Restore(bytes)` (R421): it logs nothing. -/
def restore (view : List Word) (s : State) : Ans Result × State :=
  if viewOk view then
    (.ok .unit, ((s.setRegs (viewRegisters view)).setAtc (unpackAll (view.drop 10))).setAtcNext 0)
  else (.refuse .snapshot, s)

/-- SNAP_RESTORE (R423). -/
def execSnapRestore (view : List Word) (s : State) : Host.Outcome State Fault Refusal :=
  deliverPlain (restore view s)

end Sys2Proof.Machine
end

