-- ==== Sys2Proof/Machine/Dispatch.lean ====
section
/-! DEFINITION. The dispatch of a command to its meaning: one arm per constructor of `Instr`. -/

namespace Sys2Proof.Machine

def exec (i : Instr) (s : State) : Host.Outcome State Fault Refusal :=
  match i with
  | .wrTc v => Sys2Proof.Machine.execWrTc v s
  | .wrSrp v => Sys2Proof.Machine.execWrSrp v s
  | .wrCrp v => Sys2Proof.Machine.execWrCrp v s
  | .wrTt0 v => Sys2Proof.Machine.execWrTt0 v s
  | .wrTt1 v => Sys2Proof.Machine.execWrTt1 v s
  | .wrMmusr v => Sys2Proof.Machine.execWrMmusr v s
  | .rdTc => Sys2Proof.Machine.execRdTc s
  | .rdSrp => Sys2Proof.Machine.execRdSrp s
  | .rdCrp => Sys2Proof.Machine.execRdCrp s
  | .rdTt0 => Sys2Proof.Machine.execRdTt0 s
  | .rdTt1 => Sys2Proof.Machine.execRdTt1 s
  | .rdMmusr => Sys2Proof.Machine.execRdMmusr s
  | .translate acc la => Sys2Proof.Machine.execTranslate acc la s
  | .tt0Match acc la => Sys2Proof.Machine.execTt0Match acc la s
  | .tt1Match acc la => Sys2Proof.Machine.execTt1Match acc la s
  | .walk acc la => Sys2Proof.Machine.execWalk acc la s
  | .atcLookup acc la => Sys2Proof.Machine.execAtcLookup acc la s
  | .atcInsert sup dat ci wp m la pa => Sys2Proof.Machine.execAtcInsert sup dat ci wp m la pa s
  | .flushAll => Sys2Proof.Machine.execFlushAll s
  | .flushFc fc => Sys2Proof.Machine.execFlushFc fc s
  | .flushPage fc la => Sys2Proof.Machine.execFlushPage fc la s
  | .lread8 sup dat la => Sys2Proof.Machine.execLread8 sup dat la s
  | .lread16 sup dat la => Sys2Proof.Machine.execLread16 sup dat la s
  | .lread32 sup dat la => Sys2Proof.Machine.execLread32 sup dat la s
  | .lwrite8 sup dat la v => Sys2Proof.Machine.execLwrite8 sup dat la v s
  | .lwrite16 sup dat la v => Sys2Proof.Machine.execLwrite16 sup dat la v s
  | .lwrite32 sup dat la v => Sys2Proof.Machine.execLwrite32 sup dat la v s
  | .pread8 pa => Sys2Proof.Machine.execPread8 pa s
  | .pread16 pa => Sys2Proof.Machine.execPread16 pa s
  | .pread32 pa => Sys2Proof.Machine.execPread32 pa s
  | .pwrite8 pa v => Sys2Proof.Machine.execPwrite8 pa v s
  | .pwrite16 pa v => Sys2Proof.Machine.execPwrite16 pa v s
  | .pwrite32 pa v => Sys2Proof.Machine.execPwrite32 pa v s
  | .toHost pa => Sys2Proof.Machine.execToHost pa s
  | .boundsCheck pa size => Sys2Proof.Machine.execBoundsCheck pa size s
  | .map bank start count => Sys2Proof.Machine.execMap bank start count s
  | .regionName pa => Sys2Proof.Machine.execRegionName pa s
  | .queryDecoded => Sys2Proof.Machine.execQueryDecoded s
  | .snapSave => Sys2Proof.Machine.execSnapSave s
  | .snapRestore view => Sys2Proof.Machine.execSnapRestore view s
  | .mmuReset => Sys2Proof.Machine.execMmuReset s
  | .coldReset => Sys2Proof.Machine.execColdReset s

end Sys2Proof.Machine
end

