-- ==== Sys2Proof/WellFormed.lean ====
section
/-! DEFINITION. Which terms of `Instr` are commands that an encoding can carry. Every field but two is in
range by its type; the two checks are the length of a snapshot view (`46_translated_access.md` rule R423) and
the RAM bank number of MAP, whose code `0x100 + b` is one 32-bit word (`30_encoding.md` rule R164). -/

namespace Sys2Proof

/-- A bank reference has a code of R164: for `Ram(b)`, `0x100 + b` fits in 32 bits. -/
def BankRef.encodable : BankRef → Bool
  | .ram b => decide (b + 0x100 < 2 ^ 32)
  | _ => true

/-- SNAP_RESTORE takes exactly 54 words (R423). -/
def viewLengthOk (view : List Word) : Bool := view.length == 54

/-- The well-formed commands. -/
def Instr.wellFormed : Instr → Bool
  | .map bank _ _ => bank.encodable
  | .snapRestore view => viewLengthOk view
  | .wrTc _ | .wrSrp _ | .wrCrp _ | .wrTt0 _ | .wrTt1 _ | .wrMmusr _ => true
  | .rdTc | .rdSrp | .rdCrp | .rdTt0 | .rdTt1 | .rdMmusr => true
  | .translate _ _ | .tt0Match _ _ | .tt1Match _ _ | .walk _ _ | .atcLookup _ _ => true
  | .atcInsert _ _ _ _ _ _ _ | .flushAll | .flushFc _ | .flushPage _ _ => true
  | .lread8 _ _ _ | .lread16 _ _ _ | .lread32 _ _ _ => true
  | .lwrite8 _ _ _ _ | .lwrite16 _ _ _ _ | .lwrite32 _ _ _ _ => true
  | .pread8 _ | .pread16 _ | .pread32 _ | .pwrite8 _ _ | .pwrite16 _ _ | .pwrite32 _ _ => true
  | .toHost _ | .boundsCheck _ _ | .regionName _ | .queryDecoded | .snapSave => true
  | .mmuReset | .coldReset => true

end Sys2Proof
end

