-- ==== Sys2Proof/Decode.lean ====
section
/-! DEFINITION. Commands as words (`30_encoding.md` section 4): the decoder, total on any list of words and rejecting
by name, and after it the encoder. A command is one header word and the operand words its OP fixes (rules R160 to
R162); the illegal ones of rule R163 are rejected. A rejected call is no end of the run: the block answers it with a
refusal. -/

namespace Sys2Proof

/-- Why a call is no legal command. Each is one case of R163, but for the last three: `viewLength` is a SNAP_RESTORE
whose view has another length than 54 words (R421), `wrongLength` a call whose number of operand words is not the one
its OP fixes, and `noHeader` a call of no words (DESIGN CHOICE, log entry 2: R161's decoder reads the words itself). -/
inductive Reject where
  | unknownOpcode
  | reservedBits
  | unusedBits
  | directionMismatch
  | valueTooWide
  | badBank
  | viewLength
  | wrongLength
  | noHeader
  deriving DecidableEq, Repr

/-- What a decoder answers: a command, or a rejection by name. -/
inductive Decoded where
  | instr (i : Instr)
  | reject (r : Reject)
  deriving DecidableEq, Repr

/-- The operation codes of R162, by mnemonic. -/
inductive Op where
  | wrTc | wrSrp | wrCrp | wrTt0 | wrTt1 | wrMmusr
  | rdTc | rdSrp | rdCrp | rdTt0 | rdTt1 | rdMmusr
  | translate | tt0Match | tt1Match | walk | atcLookup | atcInsert
  | flushAll | flushFc | flushPage
  | lread8 | lread16 | lread32 | lwrite8 | lwrite16 | lwrite32
  | pread8 | pread16 | pread32 | pwrite8 | pwrite16 | pwrite32
  | toHost | boundsCheck | map | regionName | queryDecoded | snapSave | snapRestore | mmuReset | coldReset
  deriving DecidableEq, Repr

/-- Every operation, in the order of R162. -/
def opAll : List Op :=
  [.wrTc, .wrSrp, .wrCrp, .wrTt0, .wrTt1, .wrMmusr, .rdTc, .rdSrp, .rdCrp, .rdTt0, .rdTt1, .rdMmusr,
   .translate, .tt0Match, .tt1Match, .walk, .atcLookup, .atcInsert, .flushAll, .flushFc, .flushPage,
   .lread8, .lread16, .lread32, .lwrite8, .lwrite16, .lwrite32,
   .pread8, .pread16, .pread32, .pwrite8, .pwrite16, .pwrite32, .toHost, .boundsCheck, .map,
   .regionName, .queryDecoded, .snapSave, .snapRestore, .mmuReset, .coldReset]

/-- The OP value (R162). -/
def opCode : Op → Nat
  | .wrTc => 0x10 | .wrSrp => 0x11 | .wrCrp => 0x12 | .wrTt0 => 0x13 | .wrTt1 => 0x14 | .wrMmusr => 0x15
  | .rdTc => 0x18 | .rdSrp => 0x19 | .rdCrp => 0x1A | .rdTt0 => 0x1B | .rdTt1 => 0x1C | .rdMmusr => 0x1D
  | .translate => 0x20 | .tt0Match => 0x21 | .tt1Match => 0x22 | .walk => 0x23
  | .atcLookup => 0x24 | .atcInsert => 0x25
  | .flushAll => 0x28 | .flushFc => 0x29 | .flushPage => 0x2A
  | .lread8 => 0x30 | .lread16 => 0x31 | .lread32 => 0x32
  | .lwrite8 => 0x34 | .lwrite16 => 0x35 | .lwrite32 => 0x36
  | .pread8 => 0x40 | .pread16 => 0x41 | .pread32 => 0x42
  | .pwrite8 => 0x44 | .pwrite16 => 0x45 | .pwrite32 => 0x46
  | .toHost => 0x48 | .boundsCheck => 0x49 | .map => 0x4A
  | .regionName => 0x50 | .queryDecoded => 0x51 | .snapSave => 0x60 | .snapRestore => 0x61
  | .mmuReset => 0x70 | .coldReset => 0x71

/-- The header bits an operation uses besides OP (R160 and the operation's own operands): S, D and WR (0x700), S and
D (0x300), FC (0x3800), CI, WP and M (0x1C000). Every other bit of its header must be 0. A logical read or write
uses WR too: `opDirection` says which value it must have. -/
def opHeaderBits : Op → Word
  | .translate | .tt0Match | .tt1Match | .walk | .atcLookup => 0x700
  | .atcInsert => 0x1C300
  | .flushFc | .flushPage => 0x3800
  | .lread8 | .lread16 | .lread32 | .lwrite8 | .lwrite16 | .lwrite32 => 0x700
  | _ => 0

/-- The direction that the WR bit of a logical read or write must state (R160, R163). -/
def opDirection : Op → Option Bool
  | .lread8 | .lread16 | .lread32 => some false
  | .lwrite8 | .lwrite16 | .lwrite32 => some true
  | _ => none

/-- How many operand words follow the header (R162; 54 for SNAP_RESTORE, R423). -/
def opOperands : Op → Nat
  | .wrSrp | .wrCrp | .atcInsert | .lwrite8 | .lwrite16 | .lwrite32 => 2
  | .pwrite8 | .pwrite16 | .pwrite32 | .boundsCheck => 2
  | .rdTc | .rdSrp | .rdCrp | .rdTt0 | .rdTt1 | .rdMmusr | .flushAll | .flushFc => 0
  | .queryDecoded | .snapSave | .mmuReset | .coldReset => 0
  | .map => 3
  | .snapRestore => 54
  | .wrTc | .wrTt0 | .wrTt1 | .wrMmusr | .translate | .tt0Match | .tt1Match | .walk | .atcLookup => 1
  | .flushPage | .lread8 | .lread16 | .lread32 | .pread8 | .pread16 | .pread32 | .toHost | .regionName => 1

/-- The operation of an OP value, if R162 lists it. -/
def opOfCode (c : Nat) : Option Op := opAll.find? (fun o => opCode o == c)

/-! ### Header fields (R160) -/

/-- OP, bits 7:0. -/
def headerOp (h : Word) : Nat := (h &&& 0xFF).toNat

/-- S, bit 8. -/
def headerS (h : Word) : Bool := h.getLsbD 8

/-- D, bit 9. -/
def headerD (h : Word) : Bool := h.getLsbD 9

/-- WR, bit 10. -/
def headerWr (h : Word) : Bool := h.getLsbD 10

/-- FC, bits 13:11. -/
def headerFc (h : Word) : BitVec 3 := h.extractLsb' 11 3

/-- CI, bit 14. -/
def headerCi (h : Word) : Bool := h.getLsbD 14

/-- WP, bit 15. -/
def headerWp (h : Word) : Bool := h.getLsbD 15

/-- M, bit 16. -/
def headerM (h : Word) : Bool := h.getLsbD 16

/-- The access descriptor of a header: S, D and WR (R14, R160). -/
def headerAccess (h : Word) : Access := { supervisor := headerS h, data := headerD h, write := headerWr h }

/-- The bank of a MAP bank code (R164). Whether `Ram(b)` is a declared bank is a matter of the configuration and is
checked by MAP itself. -/
def bankOfCode (c : Word) : Option BankRef :=
  if 0x100 ≤ c.toNat then some (.ram (c.toNat - 0x100))
  else if c = 0 then some .busErr
  else if c = 1 then some .empty
  else if c = 2 then some .rom
  else if c = 3 then some .videoMono
  else if c = 4 then some .videoColor
  else if c = 5 then some .io
  else none

/-- The first legality check of a header that R163 lists and that fails, if any. -/
def headerFault (op : Op) (h : Word) : Option Reject :=
  if h &&& 0xFFFE0000 ≠ 0 then some .reservedBits
  else if h &&& ~~~(opHeaderBits op ||| 0xFF) ≠ 0 then some .unusedBits
  else match opDirection op with
    | some d => if headerWr h = d then none else some .directionMismatch
    | none => none

/-! ### Operand words -/

/-- A command without operand words. -/
def operands0 (args : List Word) (i : Instr) : Decoded :=
  match args with
  | [] => .instr i
  | _ => .reject .wrongLength

/-- A command with one operand word. -/
def operands1 (args : List Word) (k : Word → Decoded) : Decoded :=
  match args with
  | [a] => k a
  | _ => .reject .wrongLength

/-- A command with two operand words. -/
def operands2 (args : List Word) (k : Word → Word → Decoded) : Decoded :=
  match args with
  | [a, b] => k a b
  | _ => .reject .wrongLength

/-- A command with three operand words. -/
def operands3 (args : List Word) (k : Word → Word → Word → Decoded) : Decoded :=
  match args with
  | [a, b, c] => k a b c
  | _ => .reject .wrongLength

/-- A value operand of 8 bits: bits 31:8 must be 0 (R163). -/
def value8 (v : Word) (k : Byte → Instr) : Decoded :=
  if v &&& 0xFFFFFF00 = 0 then .instr (k (v.setWidth 8)) else .reject .valueTooWide

/-- A value operand of 16 bits: bits 31:16 must be 0 (R163). -/
def value16 (v : Word) (k : Half → Instr) : Decoded :=
  if v &&& 0xFFFF0000 = 0 then .instr (k (v.setWidth 16)) else .reject .valueTooWide

/-- A 64-bit operand, upper long word first: `(word1 << 32) | word2` (R165). -/
def value64 (hi lo : Word) : Quad := (hi.setWidth 64 <<< 32) ||| lo.setWidth 64

/-- The command of a legal header `h` with operation `op` and the operand words `args` (R160 to R165). -/
def assemble (op : Op) (h : Word) (args : List Word) : Decoded :=
  match op with
  | .wrTc => operands1 args fun v => .instr (.wrTc v)
  | .wrSrp => operands2 args fun hi lo => .instr (.wrSrp (value64 hi lo))
  | .wrCrp => operands2 args fun hi lo => .instr (.wrCrp (value64 hi lo))
  | .wrTt0 => operands1 args fun v => .instr (.wrTt0 v)
  | .wrTt1 => operands1 args fun v => .instr (.wrTt1 v)
  | .wrMmusr => operands1 args fun v => value16 v .wrMmusr
  | .rdTc => operands0 args .rdTc
  | .rdSrp => operands0 args .rdSrp
  | .rdCrp => operands0 args .rdCrp
  | .rdTt0 => operands0 args .rdTt0
  | .rdTt1 => operands0 args .rdTt1
  | .rdMmusr => operands0 args .rdMmusr
  | .translate => operands1 args fun la => .instr (.translate (headerAccess h) la)
  | .tt0Match => operands1 args fun la => .instr (.tt0Match (headerAccess h) la)
  | .tt1Match => operands1 args fun la => .instr (.tt1Match (headerAccess h) la)
  | .walk => operands1 args fun la => .instr (.walk (headerAccess h) la)
  | .atcLookup => operands1 args fun la => .instr (.atcLookup (headerAccess h) la)
  | .atcInsert => operands2 args fun la pa =>
      .instr (.atcInsert (headerS h) (headerD h) (headerCi h) (headerWp h) (headerM h) la pa)
  | .flushAll => operands0 args .flushAll
  | .flushFc => operands0 args (.flushFc (headerFc h))
  | .flushPage => operands1 args fun la => .instr (.flushPage (headerFc h) la)
  | .lread8 => operands1 args fun la => .instr (.lread8 (headerS h) (headerD h) la)
  | .lread16 => operands1 args fun la => .instr (.lread16 (headerS h) (headerD h) la)
  | .lread32 => operands1 args fun la => .instr (.lread32 (headerS h) (headerD h) la)
  | .lwrite8 => operands2 args fun la v => value8 v (.lwrite8 (headerS h) (headerD h) la)
  | .lwrite16 => operands2 args fun la v => value16 v (.lwrite16 (headerS h) (headerD h) la)
  | .lwrite32 => operands2 args fun la v => .instr (.lwrite32 (headerS h) (headerD h) la v)
  | .pread8 => operands1 args fun pa => .instr (.pread8 pa)
  | .pread16 => operands1 args fun pa => .instr (.pread16 pa)
  | .pread32 => operands1 args fun pa => .instr (.pread32 pa)
  | .pwrite8 => operands2 args fun pa v => value8 v (.pwrite8 pa)
  | .pwrite16 => operands2 args fun pa v => value16 v (.pwrite16 pa)
  | .pwrite32 => operands2 args fun pa v => .instr (.pwrite32 pa v)
  | .toHost => operands1 args fun pa => .instr (.toHost pa)
  | .boundsCheck => operands2 args fun pa size => .instr (.boundsCheck pa size)
  | .map => operands3 args fun bank start count =>
      match bankOfCode bank with
      | some b => .instr (.map b start count)
      | none => .reject .badBank
  | .regionName => operands1 args fun pa => .instr (.regionName pa)
  | .queryDecoded => operands0 args .queryDecoded
  | .snapSave => operands0 args .snapSave
  | .snapRestore => if args.length = 54 then .instr (.snapRestore args) else .reject .viewLength
  | .mmuReset => operands0 args .mmuReset
  | .coldReset => operands0 args .coldReset

/-- The decoder: the words of one call, header first (R160 to R163). -/
def decode (words : List Word) : Decoded :=
  match words with
  | [] => .reject .noHeader
  | h :: args =>
    match opOfCode (headerOp h) with
    | none => .reject .unknownOpcode
    | some op =>
      match headerFault op h with
      | some r => .reject r
      | none => assemble op h args

/-! ### The encoder, from the same tables -/

/-- A header word from its fields (R160). -/
def headerWord (op : Op) (s d wr : Bool) (fc : BitVec 3) (ci wp m : Bool) : Word :=
  BitVec.ofNat 32 (opCode op + s.toNat * 0x100 + d.toNat * 0x200 + wr.toNat * 0x400 + fc.toNat * 0x800
    + ci.toNat * 0x4000 + wp.toNat * 0x8000 + m.toNat * 0x10000)

/-- A header that uses no field but OP. -/
def headerPlain (op : Op) : Word := headerWord op false false false 0 false false false

/-- A header with an access descriptor. -/
def headerAcc (op : Op) (acc : Access) : Word :=
  headerWord op acc.supervisor acc.data acc.write 0 false false false

/-- A header with the S and D bits and a fixed direction. -/
def headerSd (op : Op) (s d wr : Bool) : Word := headerWord op s d wr 0 false false false

/-- The code of a bank (R164). -/
def codeOfBank : BankRef → Word
  | .busErr => 0
  | .empty => 1
  | .rom => 2
  | .videoMono => 3
  | .videoColor => 4
  | .io => 5
  | .ram b => BitVec.ofNat 32 (0x100 + b)

/-- The upper long word of a 64-bit operand (R160, R165). -/
def quadHi (v : Quad) : Word := v.extractLsb' 32 32

/-- The lower long word of a 64-bit operand. -/
def quadLo (v : Quad) : Word := v.setWidth 32

/-- The words of a well-formed command (R160 to R165). -/
def encode : Instr → List Word
  | .wrTc v => [headerPlain .wrTc, v]
  | .wrSrp v => [headerPlain .wrSrp, quadHi v, quadLo v]
  | .wrCrp v => [headerPlain .wrCrp, quadHi v, quadLo v]
  | .wrTt0 v => [headerPlain .wrTt0, v]
  | .wrTt1 v => [headerPlain .wrTt1, v]
  | .wrMmusr v => [headerPlain .wrMmusr, v.setWidth 32]
  | .rdTc => [headerPlain .rdTc]
  | .rdSrp => [headerPlain .rdSrp]
  | .rdCrp => [headerPlain .rdCrp]
  | .rdTt0 => [headerPlain .rdTt0]
  | .rdTt1 => [headerPlain .rdTt1]
  | .rdMmusr => [headerPlain .rdMmusr]
  | .translate acc la => [headerAcc .translate acc, la]
  | .tt0Match acc la => [headerAcc .tt0Match acc, la]
  | .tt1Match acc la => [headerAcc .tt1Match acc, la]
  | .walk acc la => [headerAcc .walk acc, la]
  | .atcLookup acc la => [headerAcc .atcLookup acc, la]
  | .atcInsert s d ci wp m la pa => [headerWord .atcInsert s d false 0 ci wp m, la, pa]
  | .flushAll => [headerPlain .flushAll]
  | .flushFc fc => [headerWord .flushFc false false false fc false false false]
  | .flushPage fc la => [headerWord .flushPage false false false fc false false false, la]
  | .lread8 s d la => [headerSd .lread8 s d false, la]
  | .lread16 s d la => [headerSd .lread16 s d false, la]
  | .lread32 s d la => [headerSd .lread32 s d false, la]
  | .lwrite8 s d la v => [headerSd .lwrite8 s d true, la, v.setWidth 32]
  | .lwrite16 s d la v => [headerSd .lwrite16 s d true, la, v.setWidth 32]
  | .lwrite32 s d la v => [headerSd .lwrite32 s d true, la, v]
  | .pread8 pa => [headerPlain .pread8, pa]
  | .pread16 pa => [headerPlain .pread16, pa]
  | .pread32 pa => [headerPlain .pread32, pa]
  | .pwrite8 pa v => [headerPlain .pwrite8, pa, v.setWidth 32]
  | .pwrite16 pa v => [headerPlain .pwrite16, pa, v.setWidth 32]
  | .pwrite32 pa v => [headerPlain .pwrite32, pa, v]
  | .toHost pa => [headerPlain .toHost, pa]
  | .boundsCheck pa size => [headerPlain .boundsCheck, pa, size]
  | .map bank start count => [headerPlain .map, codeOfBank bank, start, count]
  | .regionName pa => [headerPlain .regionName, pa]
  | .queryDecoded => [headerPlain .queryDecoded]
  | .snapSave => [headerPlain .snapSave]
  | .snapRestore view => headerPlain .snapRestore :: view
  | .mmuReset => [headerPlain .mmuReset]
  | .coldReset => [headerPlain .coldReset]

/-! ### A command written as one number -/

/-- The lowest `n` words of a number, the lowest first. -/
def splitWords : Nat → Nat → List Word
  | 0, _ => []
  | n + 1, v => BitVec.ofNat 32 v :: splitWords n (v / 2 ^ 32)

/-- The words of the command whose bits are `w`, bit 0 the least significant bit of the header and each later word
above the one before it: the header and as many operand words as its OP takes, every bit from `nbits` up being 0. -/
def commandWords (nbits w : Nat) : List Word :=
  let v := w % 2 ^ nbits
  let operands := match opOfCode (headerOp (BitVec.ofNat 32 v)) with
    | some op => opOperands op
    | none => 0
  splitWords (operands + 1) v

/-- The command the decoder reads from the bits `w` (none where it rejects). -/
def decodeTableWord (nbits w : Nat) : Option Instr :=
  match decode (commandWords nbits w) with
  | .instr i => some i
  | .reject _ => none

end Sys2Proof
end

