-- ==== Sys2Proof/Machine/Fetch.lean ====
section
/-! DEFINITION. How a command reaches the block (`46_translated_access.md` rule R400, `30_encoding.md` rule R163): the
state in which a call runs, and what a rejected one answers. -/

namespace Sys2Proof.Machine

/-- The state in which a call runs: the call is taken from the inbox and its `diag_pc` stands beside it (R15). -/
def takeCall (rest : List HostEvent) (pc : Word) (s : State) : State := (s.setInbox rest).setDiagPc pc

/-- The refusal of a rejected call: RefuseSnapshot for a view of the wrong length (R421), else RefuseIllegalCommand
(R163). -/
def rejectReason (r : Reject) : RefuseReason := if r = .viewLength then .snapshot else .illegalCommand

/-- A rejected call: its refusal, and no state change but the mark (R163, R421, R461). -/
def rejectCall (r : Reject) (s : State) : Host.Outcome State Fault Refusal := deliverPlain (.refuse (rejectReason r), s)

/-- The BOOT_OVERLAY input changes between commands (R45). -/
def changeOverlay (rest : List HostEvent) (on : Bool) (s : State) : Host.Outcome State Fault Refusal :=
  .next ((s.setInbox rest).setBootOverlay on)

/-- The loader offers a configuration between commands (R472). -/
def offerConfig (rest : List HostEvent) (p : Params) (s : State) : Host.Outcome State Fault Refusal :=
  .next ((s.setInbox rest).setLoader p)

/-- The state with a call put before everything in the inbox, with the `diag_pc` the state already has. -/
def issueCall (words : List Word) (s : State) : State := s.setInbox (.call words s.diagPc :: s.inbox)

end Sys2Proof.Machine
end

