-- ==== Sys2Proof/Machine/Step.lean ====
section
/-! DEFINITION. One step: the next event of the host's inbox, whole (`00_scope.md` rule R6, `46_translated_access.md`
rule R400, `70_reset_and_hazards.md` rule R530). -/

namespace Sys2Proof.Machine

/-- Run one call: its command, or the refusal of a rejected one. -/
def runCall (words : List Word) (s : State) : Host.Outcome State Fault Refusal :=
  match decode words with
  | .instr i => exec i s
  | .reject r => rejectCall r s

/-- One step of the block. With nothing in the inbox there is no operation to run (log entry 1). -/
def step (s : State) : Host.Outcome State Fault Refusal :=
  match s.inbox with
  | [] => .fault .noCommand
  | .call words pc :: rest => runCall words (takeCall rest pc s)
  | .bootOverlay on :: rest => changeOverlay rest on s
  | .configure p :: rest => offerConfig rest p s

/-- The state with the command of the bits `w` issued next: the very next step runs it, in this state (log
entry 1). -/
def State.withFetchWord (s : State) (nbits w : Nat) : State := issueCall (commandWords nbits w) s

end Sys2Proof.Machine
end

