-- ==== Sys2Proof/Safety.lean ====
section
/-! DEFINITION. What holds of every state a run reaches, in the terms claims use, and what a safe run is. -/

namespace Sys2Proof.Machine

/-- R37: the decoded state is the decode of the raw registers. -/
def DecodedAgrees (r : Registers) : Prop :=
  r.tc = decodeTc r.tcRaw ∧ r.srp = decodeRp r.srpRaw ∧ r.crp = decodeRp r.crpRaw
    ∧ r.tt0 = decodeTt r.tt0Raw ∧ r.tt1 = decodeTt r.tt1Raw

/-- Every store is in its canonical form. -/
def StoresWf (m : Stores) : Prop :=
  (∀ x ∈ m.ram, x.wf = true) ∧ m.rom.wf = true ∧ m.vmono.wf = true ∧ m.vcolor.wf = true

/-- R43, R212: the dispatch table covers exactly the 65536 slots, in its canonical form, and every slot names a bank
that the parameters in force declare. -/
def SlotsCovered (s : State) : Prop :=
  runsTotal s.slots = numSlots ∧ runsCanonical s.slots = true
    ∧ ∀ k, legalBank s.params (bankAt s.slots k) = true

/-- The parameters in force satisfy R8 and R503, and each RAM bank has its store (R44). -/
def ParamsInForce (s : State) : Prop :=
  configOk s.params = true ∧ s.stores.ram.length = s.params.ram.length

/-- R41: the ATC has 22 entries. -/
def AtcSized (s : State) : Prop := s.atc.length = atcEntries

/-- The invariant of the machine. -/
structure Inv (s : State) : Prop where
  decoded : DecodedAgrees s.regs
  stores : StoresWf s.stores
  slots : SlotsCovered s
  params : ParamsInForce s
  atc : AtcSized s

/-- An I/O event that records a Long read, as every descriptor fetch of an I/O slot does (R87, R305). -/
def isLongRead : IoEvent → Bool
  | .read .long _ _ _ _ => true
  | .read .byte _ _ _ _ | .read .word _ _ _ _ | .write _ _ _ _ _ => false

/-- A `LimitViolationLogged` event, the only one a walk logs (R300, R312). -/
def isLimitEvent : DiagEvent → Bool
  | .limitViolationLogged _ _ _ _ _ => true
  | .configWarning _ _ _ | .romWriteDiscarded _ _ _ _ | .decodedRegister _ _ _ | .faultReported _ => false

/-- What a table walk may do to the state (R300): append Long reads to `io_history` and limit events to `diag_log`,
and take draws for the I/O oracle. Everything else is as it was. -/
structure FetchFrame (s t : State) : Prop where
  regs : t.regs = s.regs
  atc : t.atc = s.atc
  atcNext : t.atcNext = s.atcNext
  slots : t.slots = s.slots
  stores : t.stores = s.stores
  refused : t.refused = s.refused
  params : t.params = s.params
  loader : t.loader = s.loader
  bootOverlay : t.bootOverlay = s.bootOverlay
  diagPc : t.diagPc = s.diagPc
  inbox : t.inbox = s.inbox
  reply : t.reply = s.reply
  io : ∃ l, t.ioHistory = s.ioHistory ++ l ∧ ∀ e ∈ l, isLongRead e = true
  log : ∃ l, t.diagLog = s.diagLog ++ l ∧ ∀ e ∈ l, isLimitEvent e = true
  draws : s.draws ≤ t.draws

/-- A reply that is no refusal (R461: a run that contains one proves nothing about the block). -/
def replyMeaningful : Reply → Bool
  | .refuse _ => false
  | .ok _ | .fault _ _ => true

/-- A run so far without a refusal (R49). -/
def NoRefusal (s : State) : Prop := s.refused = false

/-- R150: the page fields of every ATC entry have their bits 7:0 zero. -/
def AtcAligned (s : State) : Prop := ∀ e ∈ s.atc, e.ltag &&& 0xFF = 0 ∧ e.ppage &&& 0xFF = 0

/-! ### How an operation ends, as a whole next state -/

/-- `Ok(result)` (R13). -/
def answered (s : State) (r : Result) : State := { s with reply := .ok r }

/-- `Fault{kind, info}`, reported once (R13, R452). -/
def faulted (s : State) (f : FaultRecord) (carried : Option Word) : State :=
  { s with diagLog := s.diagLog ++ [.faultReported f], reply := .fault f carried }

/-- `Refuse(reason)`, with the mark (R13, R49). -/
def refusedWith (s : State) (r : RefuseReason) : State := { s with refused := true, reply := .refuse r }

/-- A bank's bus error: `{pa, w, read}` or `{pa, w, write}`, every other field `none` (R230, R235, R451). -/
def busErrorRecord (s : State) (pa : Word) (w : Width) (write : Bool) : FaultRecord :=
  { kind := .busError, la := none, acc := none, pa := some pa, w := some w, write := some write, level := none
    descAddr := none, tt := none, result := none, diagPc := s.diagPc }

/-- A walk fault: `{la, acc, level, desc_addr}`, every other field `none` (R300, R451). -/
def walkRecord (s : State) (k : FaultKind) (la : Word) (acc : Access) (level : Level) (desc : Option Word) :
    FaultRecord :=
  { kind := k, la := some la, acc := some acc, pa := none, w := none, write := none, level := some level
    descAddr := desc, tt := none, result := none, diagPc := s.diagPc }

/-- A direction violation: `{la, acc, tt, result}`, every other field `none` (R347, R451). -/
def directionRecord (s : State) (la : Word) (acc : Access) (n : Fin 2) (r : TtResult) : FaultRecord :=
  { kind := .mmuDirectionViolation, la := some la, acc := some acc, pa := none, w := none, write := none
    level := none, descAddr := none, tt := some n, result := some r, diagPc := s.diagPc }

/-! ### Families of commands -/

/-- PREAD8, PREAD16, PREAD32 (R203 to R205). -/
def preadOf (w : Width) (pa : Word) : Instr :=
  match w with
  | .byte => .pread8 pa
  | .word => .pread16 pa
  | .long => .pread32 pa

/-- PWRITE8, PWRITE16, PWRITE32 of the low bits of `v` (R206 to R208). -/
def pwriteOf (w : Width) (pa v : Word) : Instr :=
  match w with
  | .byte => .pwrite8 pa (v.setWidth 8)
  | .word => .pwrite16 pa (v.setWidth 16)
  | .long => .pwrite32 pa v

/-- LREAD8, LREAD16, LREAD32 (R405 to R407). -/
def lreadOf (w : Width) (sup dat : Bool) (la : Word) : Instr :=
  match w with
  | .byte => .lread8 sup dat la
  | .word => .lread16 sup dat la
  | .long => .lread32 sup dat la

/-- LWRITE8, LWRITE16, LWRITE32 of the low bits of `v` (R408 to R410). -/
def lwriteOf (w : Width) (sup dat : Bool) (la v : Word) : Instr :=
  match w with
  | .byte => .lwrite8 sup dat la (v.setWidth 8)
  | .word => .lwrite16 sup dat la (v.setWidth 16)
  | .long => .lwrite32 sup dat la v

/-- The commands that translate a logical address through a walk (R320, R401, R405 to R410). -/
def mayWalk : Instr → Bool
  | .translate _ _ | .walk _ _ | .lread8 _ _ _ | .lread16 _ _ _ | .lread32 _ _ _ => true
  | .lwrite8 _ _ _ _ | .lwrite16 _ _ _ _ | .lwrite32 _ _ _ _ => true
  | .wrTc _ | .wrSrp _ | .wrCrp _ | .wrTt0 _ | .wrTt1 _ | .wrMmusr _ => false
  | .rdTc | .rdSrp | .rdCrp | .rdTt0 | .rdTt1 | .rdMmusr => false
  | .tt0Match _ _ | .tt1Match _ _ | .atcLookup _ _ | .atcInsert _ _ _ _ _ _ _ => false
  | .flushAll | .flushFc _ | .flushPage _ _ => false
  | .pread8 _ | .pread16 _ | .pread32 _ | .pwrite8 _ _ | .pwrite16 _ _ | .pwrite32 _ _ => false
  | .toHost _ | .boundsCheck _ _ | .map _ _ _ | .regionName _ | .queryDecoded => false
  | .snapSave | .snapRestore _ | .mmuReset | .coldReset => false

/-- The commands that set every register: the two resets and the restore (R32). -/
def setsAllRegisters : Instr → Bool
  | .snapRestore _ | .mmuReset | .coldReset => true
  | .translate _ _ | .walk _ _ | .lread8 _ _ _ | .lread16 _ _ _ | .lread32 _ _ _ => false
  | .lwrite8 _ _ _ _ | .lwrite16 _ _ _ _ | .lwrite32 _ _ _ _ => false
  | .wrTc _ | .wrSrp _ | .wrCrp _ | .wrTt0 _ | .wrTt1 _ | .wrMmusr _ => false
  | .rdTc | .rdSrp | .rdCrp | .rdTt0 | .rdTt1 | .rdMmusr => false
  | .tt0Match _ _ | .tt1Match _ _ | .atcLookup _ _ | .atcInsert _ _ _ _ _ _ _ => false
  | .flushAll | .flushFc _ | .flushPage _ _ => false
  | .pread8 _ | .pread16 _ | .pread32 _ | .pwrite8 _ _ | .pwrite16 _ _ | .pwrite32 _ _ => false
  | .toHost _ | .boundsCheck _ _ | .map _ _ _ | .regionName _ | .queryDecoded | .snapSave => false

/-- The commands that may insert one translation (R402). -/
def mayInsert : Instr → Bool
  | .translate _ _ | .lread8 _ _ _ | .lread16 _ _ _ | .lread32 _ _ _ => true
  | .lwrite8 _ _ _ _ | .lwrite16 _ _ _ _ | .lwrite32 _ _ _ _ | .atcInsert _ _ _ _ _ _ _ => true
  | .walk _ _ | .snapRestore _ | .mmuReset | .coldReset => false
  | .wrTc _ | .wrSrp _ | .wrCrp _ | .wrTt0 _ | .wrTt1 _ | .wrMmusr _ => false
  | .rdTc | .rdSrp | .rdCrp | .rdTt0 | .rdTt1 | .rdMmusr => false
  | .tt0Match _ _ | .tt1Match _ _ | .atcLookup _ _ | .flushAll | .flushFc _ | .flushPage _ _ => false
  | .pread8 _ | .pread16 _ | .pread32 _ | .pwrite8 _ _ | .pwrite16 _ _ | .pwrite32 _ _ => false
  | .toHost _ | .boundsCheck _ _ | .map _ _ _ | .regionName _ | .queryDecoded | .snapSave => false

/-- The three flushes (R375 to R377). -/
def isFlush : Instr → Bool
  | .flushAll | .flushFc _ | .flushPage _ _ => true
  | .translate _ _ | .lread8 _ _ _ | .lread16 _ _ _ | .lread32 _ _ _ => false
  | .lwrite8 _ _ _ _ | .lwrite16 _ _ _ _ | .lwrite32 _ _ _ _ | .atcInsert _ _ _ _ _ _ _ => false
  | .walk _ _ | .snapRestore _ | .mmuReset | .coldReset => false
  | .wrTc _ | .wrSrp _ | .wrCrp _ | .wrTt0 _ | .wrTt1 _ | .wrMmusr _ => false
  | .rdTc | .rdSrp | .rdCrp | .rdTt0 | .rdTt1 | .rdMmusr => false
  | .tt0Match _ _ | .tt1Match _ _ | .atcLookup _ _ => false
  | .pread8 _ | .pread16 _ | .pread32 _ | .pwrite8 _ _ | .pwrite16 _ _ | .pwrite32 _ _ => false
  | .toHost _ | .boundsCheck _ _ | .map _ _ _ | .regionName _ | .queryDecoded | .snapSave => false

/-! ### The encoding, as the manual's tables write it -/

/-- OP and the header bits an operation uses besides OP (R160, R162): S, D and WR are 0x700, FC is 0x3800, CI, WP and
M are 0x1C000. -/
def opcodeRows : List (Nat × Word) :=
  [(0x10, 0), (0x11, 0), (0x12, 0), (0x13, 0), (0x14, 0), (0x15, 0), (0x18, 0), (0x19, 0), (0x1A, 0), (0x1B, 0),
   (0x1C, 0), (0x1D, 0), (0x20, 0x700), (0x21, 0x700), (0x22, 0x700), (0x23, 0x700), (0x24, 0x700), (0x25, 0x1C300),
   (0x28, 0), (0x29, 0x3800), (0x2A, 0x3800), (0x30, 0x700), (0x31, 0x700), (0x32, 0x700), (0x34, 0x700),
   (0x35, 0x700), (0x36, 0x700), (0x40, 0), (0x41, 0), (0x42, 0), (0x44, 0), (0x45, 0), (0x46, 0), (0x48, 0),
   (0x49, 0), (0x4A, 0), (0x50, 0), (0x51, 0), (0x60, 0), (0x61, 0), (0x70, 0), (0x71, 0)]

/-- The illegal calls of R163, one constructor for each case it lists. -/
inductive IllegalCall (p : Params) (h : Word) (args : List Word) : Prop
  | unknownOp (no : ∀ row ∈ opcodeRows, row.1 ≠ h.toNat % 256)
  | reservedBit (set : h &&& 0xFFFE0000 ≠ 0)
  | unusedBit (row : Nat × Word) (listed : row ∈ opcodeRows) (op : h.toNat % 256 = row.1)
      (set : h &&& ~~~(row.2 ||| 0xFF) ≠ 0)
  | readDirection (op : h.toNat % 256 ∈ [0x30, 0x31, 0x32]) (wr : h.getLsbD 10 = true)
  | writeDirection (op : h.toNat % 256 ∈ [0x34, 0x35, 0x36]) (wr : h.getLsbD 10 = false)
  | wideByte (op : h.toNat % 256 ∈ [0x34, 0x44]) (a v : Word) (is : args = [a, v]) (wide : 0x100 ≤ v.toNat)
  | wideWord (op : h.toNat % 256 ∈ [0x35, 0x45]) (a v : Word) (is : args = [a, v]) (wide : 0x10000 ≤ v.toNat)
  | wideStatus (op : h.toNat % 256 = 0x15) (v : Word) (is : args = [v]) (wide : 0x10000 ≤ v.toNat)
  | badBank (op : h.toNat % 256 = 0x4A) (c start count : Word) (is : args = [c, start, count])
      (low : 6 ≤ c.toNat) (none : c.toNat < 0x100 ∨ 0x100 + p.ram.length ≤ c.toNat)

/-- A header with OP, S, D and WR (R160). -/
def accHeader (op : Nat) (acc : Access) : Word :=
  BitVec.ofNat 32 (op + acc.supervisor.toNat * 0x100 + acc.data.toNat * 0x200 + acc.write.toNat * 0x400)

/-! ### Fields of raw registers -/

/-- `v[lo+n-1 : lo]` as a number (R9). -/
def rawField (v lo n : Nat) : Nat := v / 2 ^ lo % 2 ^ n

/-- The index width of a level in a raw TC: TIA, TIB, TIC or TID (R33). -/
def rawWidth (raw : Word) (l : TableLevel) : Nat := rawField raw.toNat (12 - 4 * levelIndex l) 4

/-- IS and the widths of the levels down to and including this one (R263). -/
def bitsDownTo (raw : Word) : TableLevel → Nat
  | .a => rawField raw.toNat 16 4 + rawWidth raw .a
  | .b => rawField raw.toNat 16 4 + rawWidth raw .a + rawWidth raw .b
  | .c => rawField raw.toNat 16 4 + rawWidth raw .a + rawWidth raw .b + rawWidth raw .c
  | .d => rawField raw.toNat 16 4 + rawWidth raw .a + rawWidth raw .b + rawWidth raw .c + rawWidth raw .d

/-- `sum` of R266. -/
def rawSum (raw : Word) : Nat := rawField raw.toNat 20 4 + bitsDownTo raw .d

/-- A window of a raw TT register covers an access (R342, R343): enabled, every address bit that LAM does not ignore
equal to LAB's, and under TT_FC_FILTER every function-code bit that FCM does not ignore equal to FCB's. -/
def WindowCovers (p : Params) (raw la : Word) (acc : Access) : Prop :=
  raw.getLsbD 15 = true
    ∧ (∀ k < 8, raw.getLsbD (16 + k) = false → la.getLsbD (24 + k) = raw.getLsbD (24 + k))
    ∧ (p.ttFcFilter = true →
        ∀ k < 3, raw.getLsbD k = false → (functionCode acc).getLsbD k = raw.getLsbD (4 + k))

/-- RWM turns the direction check on, in the sense TT_RWM_SENSE chooses (R342). -/
def WindowDirected (p : Params) (raw : Word) : Prop :=
  raw.getLsbD 8 = match p.ttRwmSense with
    | .source => true
    | .mc68030 => false

/-- The code of a window's result (R341, R342), from the raw register. -/
def WindowCode (p : Params) (raw la : Word) (acc : Access) (n : Nat) : Prop :=
  (n = 0 ∧ ¬ WindowCovers p raw la acc) ∨
  (WindowCovers p raw la acc ∧
    ((n = 1 ∧ (WindowDirected p raw → raw.getLsbD 9 ≠ acc.write)) ∨
     (n = 2 ∧ WindowDirected p raw ∧ raw.getLsbD 9 = false ∧ acc.write = false) ∨
     (n = 3 ∧ WindowDirected p raw ∧ raw.getLsbD 9 = true ∧ acc.write = true)))

/-! ### The ATC -/

/-- An entry hits an address under a page mask (R371). -/
def AtcHits (pageMask : Word) (fc : BitVec 3) (la : Word) (e : AtcEntry) : Prop :=
  e.valid = true ∧ e.fc = fc ∧ e.ltag &&& ~~~pageMask = la &&& ~~~pageMask

/-- Entry `k` is the lowest that hits (R371). -/
def LowestHit (s : State) (fc : BitVec 3) (la : Word) (k : Nat) (e : AtcEntry) : Prop :=
  s.params.atcMode = .normal ∧ s.atc[k]? = some e ∧ AtcHits s.regs.tc.pageMask fc la e
    ∧ ∀ j < k, ∀ x, s.atc[j]? = some x → ¬ AtcHits s.regs.tc.pageMask fc la x

/-- No entry hits (R371). -/
def NoHit (s : State) (fc : BitVec 3) (la : Word) : Prop :=
  s.params.atcMode = .alwaysMiss ∨ ∀ e ∈ s.atc, ¬ AtcHits s.regs.tc.pageMask fc la e

/-- A flush clears `valid` of the entries that a test picks, and does nothing else (R375 to R377). -/
def FlushClears (s : State) (i : Instr) (pick : AtcEntry → Prop) : Prop :=
  ∃ l, exec i s = .next { s with atc := l, reply := .ok .unit } ∧ l.length = s.atc.length
    ∧ ∀ (k : Nat) (e : AtcEntry), s.atc[k]? = some e →
      (pick e → l[k]? = some { e with valid := false }) ∧ (¬ pick e → l[k]? = some e)

/-- No window matches an access (R344). -/
def NoWindow (s : State) (la : Word) (acc : Access) : Prop :=
  ttMatch s.params s.regs.tt0 la acc = .noMatch ∧ ttMatch s.params s.regs.tt1 la acc = .noMatch

/-! ### Stores and values -/

/-- The store of a bank and its size, for the banks that have one (R44). -/
def storeOf (s : State) : BankRef → Option (Memory × Nat)
  | .ram b =>
    match s.params.ram[b]?, s.stores.ram[b]? with
    | some r, some m => some (m, r.size)
    | _, _ => none
  | .rom => some (s.stores.rom, s.params.romSize)
  | .videoMono => some (s.stores.vmono, s.params.vmonoSize)
  | .videoColor => some (s.stores.vcolor, s.params.vcolorSize)
  | .empty | .busErr | .io => none

/-- The stores with the store of one bank replaced. -/
def putStore (m : Stores) (bank : BankRef) (x : Memory) : Stores :=
  match bank with
  | .ram b => { m with ram := m.ram.set b x }
  | .rom => { m with rom := x }
  | .videoMono => { m with vmono := x }
  | .videoColor => { m with vcolor := x }
  | .empty | .busErr | .io => m

/-- The number in the bytes from an offset up, the byte at the lowest offset the most significant (R82). -/
def bigEndian (m : Memory) (o : Nat) : Width → Nat
  | .byte => (readByte m o).toNat
  | .word => (readByte m o).toNat * 0x100 + (readByte m (o + 1)).toNat
  | .long => (readByte m o).toNat * 0x1000000 + (readByte m (o + 1)).toNat * 0x10000
      + (readByte m (o + 2)).toNat * 0x100 + (readByte m (o + 3)).toNat

/-- Byte `i` of a value of a width, the most significant first (R82). -/
def valueByte (w : Width) (v : Word) (i : Nat) : Byte := (v >>> (8 * (widthBytes w - 1 - i))).setWidth 8

/-- A store that holds a value's bytes from an offset up, and elsewhere what another store holds. -/
def HoldsAt (old new : Memory) (o : Nat) (w : Width) (v : Word) : Prop :=
  (∀ i < widthBytes w, readByte new (o + i) = valueByte w v i)
    ∧ ∀ j, (j < o ∨ o + widthBytes w ≤ j) → readByte new j = readByte old j

/-- The byte a configured image gives an offset: that of its last pair for the offset, 0 where it has none (log entry
7). -/
def imageByte (img : Image) (j : Nat) : Byte :=
  match img.reverse.find? (fun c => decide (c.1 = j)) with
  | some c => c.2
  | none => 0

/-- A store in its canonical form that holds an image in its first `size` bytes, and beyond them no byte. -/
def HoldsImage (m : Memory) (size : Nat) (img : Image) : Prop :=
  m.seed = none ∧ m.wf = true ∧ (∀ j < size, readByte m j = imageByte img j) ∧ ∀ j, size ≤ j → readByte m j = 0

/-- Where an access gets a bus error (R241): BusErr, whatever it is; Empty, unless it is a Long read or a Long write with
an owner; I/O, where the collaborator may answer one. -/
def BusErrorAt (s : State) (pa : Word) (w : Width) (write : Bool) : Prop :=
  bankAt s.slots (pa.toNat / 0x10000) = .busErr ∨ bankAt s.slots (pa.toNat / 0x10000) = .io
    ∨ (bankAt s.slots (pa.toNat / 0x10000) = .empty
      ∧ (w ≠ .long ∨ (write = true ∧ emptyOwnerAt s.params (pa.toNat / 0x10000) = none)))

/-! ### Descriptors, as the tables of R132 and R133 write them -/

/-- An index that a limit admits: not below a lower limit, not above an upper one (R312). -/
def WithinLimit (lower : Bool) (limit : Nat) (idx : Word) : Prop :=
  if lower then limit ≤ idx.toNat else idx.toNat ≤ limit

/-- The descriptor in one long word, of a type that is not 0 (R130 to R132, R134). -/
def shortDescriptor (d : Word) (pos : DescPos) : Desc :=
  if d &&& 3 = 1 then
    .page { pg := d &&& 0xFFFFFF00, wp := d.getLsbD 2, m := d.getLsbD 4, ci := d.getLsbD 6, s := false }
  else
    match pos with
    | .nonLast =>
      .table { ta := d &&& 0xFFFFFFF0, size := if d &&& 3 = 2 then .four else .eight, wp := d.getLsbD 2, s := false
               limit := { has := false, limit := 0, lower := false } }
    | .last => .indirect (d &&& 0xFFFFFFFC) (if d &&& 3 = 2 then .four else .eight)
    | .indirectTarget => .invalid

/-- The descriptor in two long words, of a type that is not 0 (R130, R131, R133, R134). -/
def longDescriptor (d0 d1 : Word) (pos : DescPos) : Desc :=
  if d0 &&& 3 = 1 then
    .page { pg := d1 &&& 0xFFFFFF00, wp := d0.getLsbD 2, m := d0.getLsbD 4, ci := d0.getLsbD 6, s := d0.getLsbD 8 }
  else
    match pos with
    | .nonLast =>
      .table { ta := d1 &&& 0xFFFFFFF0, size := if d0 &&& 3 = 2 then .four else .eight, wp := d0.getLsbD 2
               s := d0.getLsbD 8
               limit := { has := true, limit := rawField d0.toNat 16 15, lower := d0.getLsbD 31 } }
    | .last => .indirect (d1 &&& 0xFFFFFFFC) (if d0 &&& 3 = 2 then .four else .eight)
    | .indirectTarget => .invalid

/-- A ROM read that the boot overlay redirects (R226). -/
def OverlaidRead (s : State) (pa : Word) : Prop :=
  bankAt s.slots (pa.toNat / 0x10000) = .rom ∧ s.bootOverlay = true ∧ pa.toNat < 0x2000

/-! ### The snapshot view -/

/-- Word `j` of the view (R420). -/
def snapshotWord (s : State) (j : Nat) : Word :=
  match j with
  | 0 => 1
  | 1 => s.regs.tcRaw
  | 2 => (s.regs.srpRaw >>> 32).setWidth 32
  | 3 => s.regs.srpRaw.setWidth 32
  | 4 => (s.regs.crpRaw >>> 32).setWidth 32
  | 5 => s.regs.crpRaw.setWidth 32
  | 6 => s.regs.tt0Raw
  | 7 => s.regs.tt1Raw
  | 8 => s.regs.mmusrRaw.setWidth 32
  | 9 => 22
  | n + 10 =>
    if n % 2 = 0 then packTag (s.atc.getD (n / 2) AtcEntry.zero) else packEntry (s.atc.getD (n / 2) AtcEntry.zero)

/-- The words of a byte string, each big-endian. -/
def wordsOfBytes : List Byte → List Word
  | a :: b :: c :: d :: r => (a ++ b ++ c ++ d) :: wordsOfBytes r
  | _ => []

/-! ### The configuration (R503) -/

/-- A slot of a RAM bank's allocation (R223). -/
def InAllocation (r : RamBank) (k : Nat) : Prop :=
  r.base.toNat / 0x10000 ≤ k ∧ k < r.base.toNat / 0x10000 + r.maxSlots

/-- The bank of the last MEMORY_MAP entry that covers a slot, BusErr where none does (R503). -/
def lastMapped (calls : List MapCall) (k : Nat) : BankRef :=
  match calls.reverse.find? (fun c => decide (c.start ≤ k) && decide (k < c.start + c.count)) with
  | some c => c.bank
  | none => .busErr

/-- R8 and every requirement of R503, as R503 writes them. -/
structure ConfigSound (p : Params) : Prop where
  sizes : (∀ r ∈ p.ram, ∃ k, r.size = 2 ^ k) ∧ (∃ k, p.romSize = 2 ^ k) ∧ (∃ k, p.vmonoSize = 2 ^ k)
    ∧ (∃ k, p.vcolorSize = 2 ^ k)
  banks : ∀ r ∈ p.ram, r.base.toNat % 0x10000 = 0 ∧ 0x10000 ≤ r.size ∧ r.size ≤ r.maxSlots * 0x10000
    ∧ r.base.toNat / 0x10000 + r.maxSlots ≤ 65536
  apart : ∀ (i j : Nat) (r q : RamBank), i ≠ j → p.ram[i]? = some r → p.ram[j]? = some q →
    ∀ k, ¬ (InAllocation r k ∧ InAllocation q k)
  calls : ∀ c ∈ p.memoryMap, c.start + c.count ≤ 65536 ∧ ∀ b, c.bank = .ram b → b < p.ram.length
  filled : ∀ (b : Nat) (r : RamBank), p.ram[b]? = some r → ∀ k, InAllocation r k →
    lastMapped p.memoryMap k
      = if k < r.base.toNat / 0x10000 + r.size / 0x10000 then BankRef.ram b else BankRef.empty
  owners : ∀ k < 65536, lastMapped p.memoryMap k = .empty → ∀ b : Nat,
    emptyOwnerAt p k = some b ↔ ∃ r, p.ram[b]? = some r ∧ InAllocation r k

end Sys2Proof.Machine
end

