-- ==== Sys2Proof/Certificates/Slice0/Obligations.lean ====
section
/-! DEFINITION. The statements about the block that are to be proved. Each says which rules of the spec it formalises;
a statement that rests on a choice of the model names the log entry. The terms are those of `Sys2Proof/Safety.lean`. -/

open Sys2Proof Sys2Proof.Machine

/-! ### Encoding and the command stream -/

/-- R160 to R165: the decoder reads back every well-formed command the encoder writes, with every operand at every
value. -/
def Obligations.DecodeReadsBackEncode : Prop :=
  ∀ i : Instr, i.wellFormed = true → decode (encode i) = .instr i

/-- R160 to R165: a call that decodes is the encoding of its command, so that no bit of a legal call is ignored and no
command has two encodings. -/
def Obligations.DecodedCallIsItsEncoding : Prop :=
  ∀ (words : List Word) (i : Instr), decode words = .instr i → encode i = words ∧ i.wellFormed = true

/-- R163, R164: an illegal call answers `RefuseIllegalCommand` and changes nothing but the mark and what a call takes. -/
def Obligations.IllegalCallsAreRefused : Prop :=
  ∀ (s : State) (h : Word) (args : List Word) (pc : Word) (rest : List HostEvent), IllegalCall s.params h args →
    step { s with inbox := .call (h :: args) pc :: rest }
      = .next (refusedWith { s with inbox := rest, diagPc := pc } .illegalCommand)

/-- R161, R400: when the words of the next call decode to a command, the step is that command, run in the state from
which the call has been taken and in which its `diag_pc` stands. Calls come through the inbox, log entry 1. -/
def Obligations.StepRunsDecodedCommand : Prop :=
  ∀ (s : State) (words : List Word) (pc : Word) (rest : List HostEvent) (i : Instr), decode words = .instr i →
    step { s with inbox := .call words pc :: rest } = exec i { s with inbox := rest, diagPc := pc }

/-- Log entries 1, 2, 4 and 10, the model's choices: the other host events change one input each, a call whose words do
not decode is refused (as RefuseSnapshot where it is a view of the wrong length, R421), and with no event there is no
step. -/
def Obligations.StepTakesHostEvents : Prop :=
  ∀ (s : State) (rest : List HostEvent),
    (∀ on, step { s with inbox := .bootOverlay on :: rest } = .next { s with inbox := rest, bootOverlay := on })
    ∧ (∀ p, step { s with inbox := .configure p :: rest } = .next { s with inbox := rest, loader := p })
    ∧ (∀ words pc r, decode words = .reject r →
        step { s with inbox := .call words pc :: rest }
          = .next (refusedWith { s with inbox := rest, diagPc := pc }
              (if r = .viewLength then .snapshot else .illegalCommand)))
    ∧ step { s with inbox := [] } = .fault .noCommand

/-- R160, R162, R164: words written out from the tables decode to the commands they stand for. -/
def Obligations.WrittenWordsDecode : Prop :=
  decode [0x00000010, 0x80C0AA00] = .instr (.wrTc 0x80C0AA00)
  ∧ decode [0x00000012, 0x80010003, 0x0010000F] = .instr (.wrCrp 0x800100030010000F)
  ∧ decode [0x00000332, 0x04801234] = .instr (.lread32 true true 0x04801234)
  ∧ decode [0x00000736, 0x04801000, 0xCAFEF00D] = .instr (.lwrite32 true true 0x04801000 0xCAFEF00D)
  ∧ decode [0x00000620, 0xFF001234] = .instr (.translate ⟨false, true, true⟩ 0xFF001234)
  ∧ decode [0x0000082A, 0x00000FFC] = .instr (.flushPage 1 0x00000FFC)
  ∧ decode [0x0001C225, 0x00007000, 0x04107000] = .instr (.atcInsert false true true true true 0x00007000 0x04107000)
  ∧ decode [0x0000004A, 0x00000005, 0x00000300, 0x00000010] = .instr (.map .io 0x300 0x10)
  ∧ decode [0x00000045, 0x03050002, 0x0000BEEF] = .instr (.pwrite16 0x03050002 0xBEEF)

/-! ### Registers -/

/-- R270: WR_TC stores the value, decodes it and logs it, with a warning where the field sum is not 32. -/
def Obligations.WrTcStoresDecodesAndLogs : Prop :=
  ∀ (v : Word) (s : State),
    decode [0x10, v] = .instr (.wrTc v)
    ∧ exec (.wrTc v) s = .next { s with
        regs := { s.regs with tcRaw := v, tc := decodeTc v }
        diagLog := s.diagLog ++ .decodedRegister .tc (v.setWidth 64) s.diagPc ::
          (if rawSum v = 32 then [] else [.configWarning v (rawSum v) s.diagPc])
        reply := .ok .unit }

/-- R260, R262, R263, R264: every field of a decoded TC, as arithmetic on the raw value. The last three clauses are the
present levels and the two flags of R265 and R266. -/
def Obligations.TcDecodeFields : Prop :=
  ∀ raw : Word,
    ((decodeTc raw).enabled = true ↔ rawField raw.toNat 31 1 = 1)
    ∧ ((decodeTc raw).sre = true ↔ rawField raw.toNat 25 1 = 1)
    ∧ ((decodeTc raw).fcl = true ↔ rawField raw.toNat 24 1 = 1)
    ∧ (decodeTc raw).ps = rawField raw.toNat 20 4
    ∧ (decodeTc raw).initShift = rawField raw.toNat 16 4
    ∧ (∀ l, levelGet (decodeTc raw).width l = rawWidth raw l)
    ∧ (decodeTc raw).pageMask.toNat = 2 ^ rawField raw.toNat 20 4 - 1
    ∧ (∀ l, if 32 < bitsDownTo raw l then levelGet (decodeTc raw).table l = ⟨0, 0⟩
        else (levelGet (decodeTc raw).table l).shift = 32 - bitsDownTo raw l
          ∧ (levelGet (decodeTc raw).table l).mask.toNat = (2 ^ rawWidth raw l - 1) * 2 ^ (32 - bitsDownTo raw l))
    ∧ (∀ l, rawWidth raw l ≠ 0 → levelIndex l ≤ levelIndex (decodeTc raw).lastTableIndex)
    ∧ (rawWidth raw (decodeTc raw).lastTableIndex ≠ 0
        ∨ ((decodeTc raw).lastTableIndex = .a ∧ ∀ l, rawWidth raw l = 0))
    ∧ (∀ l, levelGet (decodeTc raw).present l = true ↔ rawWidth raw l ≠ 0 ∨ (l = .a ∧ ∀ k, rawWidth raw k = 0))
    ∧ ((decodeTc raw).sumOk = true ↔ rawSum raw = 32)
    ∧ ((decodeTc raw).tcUnmodelled = true ↔ rawField raw.toNat 20 4 < 8 ∨ 32 < bitsDownTo raw .d)

/-- R282: where the field sum is 32, the page mask and the level masks are pairwise disjoint runs of bits that cover the
bits below `32 - init_shift`. -/
def Obligations.TcMasksPartitionTheAddress : Prop :=
  ∀ raw : Word, rawSum raw = 32 →
    (∀ k < 32, (decodeTc raw).pageMask.getLsbD k = decide (k < (decodeTc raw).ps))
    ∧ (∀ l, ∀ k < 32, (levelGet (decodeTc raw).table l).mask.getLsbD k
        = (decide ((levelGet (decodeTc raw).table l).shift ≤ k)
          && decide (k < (levelGet (decodeTc raw).table l).shift + rawWidth raw l)))
    ∧ (decodeTc raw).table.a.shift + rawWidth raw .a = 32 - (decodeTc raw).initShift
    ∧ (decodeTc raw).table.b.shift + rawWidth raw .b = (decodeTc raw).table.a.shift
    ∧ (decodeTc raw).table.c.shift + rawWidth raw .c = (decodeTc raw).table.b.shift
    ∧ (decodeTc raw).table.d.shift + rawWidth raw .d = (decodeTc raw).table.c.shift
    ∧ (decodeTc raw).table.d.shift = (decodeTc raw).ps
    ∧ (decodeTc raw).ps + rawWidth raw .a + rawWidth raw .b + rawWidth raw .c + rawWidth raw .d
        = 32 - (decodeTc raw).initShift
    ∧ (∀ l, (decodeTc raw).pageMask &&& (levelGet (decodeTc raw).table l).mask = 0)
    ∧ (∀ l k, l ≠ k → (levelGet (decodeTc raw).table l).mask &&& (levelGet (decodeTc raw).table k).mask = 0)
    ∧ (decodeTc raw).pageMask ||| (decodeTc raw).table.a.mask ||| (decodeTc raw).table.b.mask
        ||| (decodeTc raw).table.c.mask ||| (decodeTc raw).table.d.mask = 0xFFFFFFFF >>> (decodeTc raw).initShift

/-- R271, R272, with the fields of R267: a root pointer write stores all 64 bits and decodes four fields. -/
def Obligations.RootPointerWrites : Prop :=
  (∀ hi lo : Word, decode [0x11, hi, lo] = .instr (.wrSrp (hi ++ lo)) ∧ decode [0x12, hi, lo] = .instr (.wrCrp (hi ++ lo)))
  ∧ (∀ (v : Quad) (s : State),
      exec (.wrSrp v) s = .next { s with
        regs := { s.regs with srpRaw := v, srp := decodeRp v }
        diagLog := s.diagLog ++ [.decodedRegister .srp v s.diagPc], reply := .ok .unit }
      ∧ exec (.wrCrp v) s = .next { s with
        regs := { s.regs with crpRaw := v, crp := decodeRp v }
        diagLog := s.diagLog ++ [.decodedRegister .crp v s.diagPc], reply := .ok .unit })
  ∧ ∀ v : Quad,
      ((decodeRp v).limitIsLower = true ↔ rawField v.toNat 63 1 = 1)
      ∧ (decodeRp v).limit = rawField v.toNat 48 15
      ∧ (decodeRp v).dt.toNat = rawField v.toNat 32 2
      ∧ (decodeRp v).tableAddress.toNat = rawField v.toNat 4 28 * 16

/-- R273, R274, R275, with the fields of R268: the window registers and MMUSR are stored as written. -/
def Obligations.WindowAndStatusWrites : Prop :=
  (∀ (v : Word) (s : State),
    decode [0x13, v] = .instr (.wrTt0 v) ∧ decode [0x14, v] = .instr (.wrTt1 v)
    ∧ exec (.wrTt0 v) s = .next { s with
        regs := { s.regs with tt0Raw := v, tt0 := decodeTt v }
        diagLog := s.diagLog ++ [.decodedRegister .tt0 (v.setWidth 64) s.diagPc], reply := .ok .unit }
    ∧ exec (.wrTt1 v) s = .next { s with
        regs := { s.regs with tt1Raw := v, tt1 := decodeTt v }
        diagLog := s.diagLog ++ [.decodedRegister .tt1 (v.setWidth 64) s.diagPc], reply := .ok .unit })
  ∧ (∀ (v : Half) (s : State),
    decode [0x15, v.setWidth 32] = .instr (.wrMmusr v)
    ∧ exec (.wrMmusr v) s = .next { s with
        regs := { s.regs with mmusrRaw := v }
        diagLog := s.diagLog ++ [.decodedRegister .mmusr (v.setWidth 64) s.diagPc], reply := .ok .unit })
  ∧ ∀ v : Word,
      ((decodeTt v).enabled = true ↔ rawField v.toNat 15 1 = 1)
      ∧ ((decodeTt v).ci = true ↔ rawField v.toNat 10 1 = 1)
      ∧ ((decodeTt v).rw = true ↔ rawField v.toNat 9 1 = 1)
      ∧ ((decodeTt v).rwm = true ↔ rawField v.toNat 8 1 = 1)
      ∧ (decodeTt v).addrBase.toNat = rawField v.toNat 24 8 * 2 ^ 24
      ∧ (decodeTt v).addrMask.toNat = (255 - rawField v.toNat 16 8) * 2 ^ 24
      ∧ (decodeTt v).fcBase.toNat = rawField v.toNat 4 3
      ∧ (decodeTt v).fcMask.toNat = 7 - rawField v.toNat 0 3

/-- R276 to R280 and the value of R281: a register read answers the raw value and changes nothing. -/
def Obligations.RegisterReadsAnswerRaw : Prop :=
  decode [0x18] = .instr .rdTc ∧ decode [0x19] = .instr .rdSrp ∧ decode [0x1A] = .instr .rdCrp
  ∧ decode [0x1B] = .instr .rdTt0 ∧ decode [0x1C] = .instr .rdTt1 ∧ decode [0x1D] = .instr .rdMmusr
  ∧ ∀ s : State,
      exec .rdTc s = .next (answered s (.value .long s.regs.tcRaw))
      ∧ exec .rdSrp s = .next (answered s (.value64 s.regs.srpRaw))
      ∧ exec .rdCrp s = .next (answered s (.value64 s.regs.crpRaw))
      ∧ exec .rdTt0 s = .next (answered s (.value .long s.regs.tt0Raw))
      ∧ exec .rdTt1 s = .next (answered s (.value .long s.regs.tt1Raw))
      ∧ exec .rdMmusr s = .next (answered s (.value .long (s.regs.mmusrRaw.setWidth 32)))

/-- R32, R281: a raw register changes only by its own write, by a reset or by a restore, whatever the command answers. -/
def Obligations.RegistersChangeOnlyByTheirWrites : Prop :=
  ∀ (i : Instr) (s t : State), exec i s = .next t → setsAllRegisters i = false →
    ((∀ v, i ≠ .wrTc v) → t.regs.tcRaw = s.regs.tcRaw ∧ t.regs.tc = s.regs.tc)
    ∧ ((∀ v, i ≠ .wrSrp v) → t.regs.srpRaw = s.regs.srpRaw ∧ t.regs.srp = s.regs.srp)
    ∧ ((∀ v, i ≠ .wrCrp v) → t.regs.crpRaw = s.regs.crpRaw ∧ t.regs.crp = s.regs.crp)
    ∧ ((∀ v, i ≠ .wrTt0 v) → t.regs.tt0Raw = s.regs.tt0Raw ∧ t.regs.tt0 = s.regs.tt0)
    ∧ ((∀ v, i ≠ .wrTt1 v) → t.regs.tt1Raw = s.regs.tt1Raw ∧ t.regs.tt1 = s.regs.tt1)
    ∧ ((∀ v, i ≠ .wrMmusr v) → t.regs.mmusrRaw = s.regs.mmusrRaw)

/-- R37: after every operation the decoded state is the decode of the raw registers. -/
def Obligations.DecodedRegistersAgreeKept : Prop :=
  ∀ s t : State, DecodedAgrees s.regs → step s = .next t → DecodedAgrees t.regs

/-! ### The ATC -/

/-- R42, R370, R381: only insertions, flushes, the resets and the restore write the ATC; an operation that may insert
writes at most one entry, a valid one. -/
def Obligations.OnlyAtcOperationsChangeTheAtc : Prop :=
  ∀ (i : Instr) (s t : State), exec i s = .next t → isFlush i = false → setsAllRegisters i = false →
    (mayInsert i = false → t.atc = s.atc ∧ t.atcNext = s.atcNext)
    ∧ ((t.atc = s.atc ∧ t.atcNext = s.atcNext) ∨ ∃ k e, e.valid = true ∧ t.atc = s.atc.set k e)

/-- R375, R376, R377: a flush clears `valid` of exactly the entries it names and changes nothing else. -/
def Obligations.FlushesClearExactlyTheirEntries : Prop :=
  ∀ (s : State) (f : BitVec 3) (la : Word),
    decode [0x28] = .instr .flushAll
    ∧ decode [BitVec.ofNat 32 (0x29 + 0x800 * f.toNat)] = .instr (.flushFc f)
    ∧ decode [BitVec.ofNat 32 (0x2A + 0x800 * f.toNat), la] = .instr (.flushPage f la)
    ∧ FlushClears s .flushAll (fun _ => True)
    ∧ FlushClears s (.flushFc f) (fun e => e.valid = true ∧ e.fc = f)
    ∧ FlushClears s (.flushPage f la) (AtcHits s.regs.tc.pageMask f la)

/-- R98: right after a flush that covers an address, ATC_LOOKUP misses it and no translation of it comes from the
ATC. -/
def Obligations.FlushedAddressMisses : Prop :=
  ∀ (s t : State) (i : Instr) (acc : Access) (la : Word),
    (i = .flushAll ∨ i = .flushFc (functionCode acc)
      ∨ ∃ la', i = .flushPage (functionCode acc) la' ∧ la &&& ~~~s.regs.tc.pageMask = la' &&& ~~~s.regs.tc.pageMask) →
    exec i s = .next t → s.regs.tc.tcUnmodelled = false →
    exec (.atcLookup acc la) t = .next (answered t .atcMiss)
    ∧ ∀ u r, exec (.translate acc la) t = .next u → u.reply = .ok (.translation r) → r.via ≠ .atc

/-- R378, by the rule of R371: ATC_LOOKUP answers the lowest entry that hits, or a miss, and changes nothing. The last
clause is the function code of R14. -/
def Obligations.AtcLookupAnswersLowestHit : Prop :=
  ∀ (acc : Access) (la : Word) (s : State),
    decode [accHeader 0x24 acc, la] = .instr (.atcLookup acc la)
    ∧ (s.regs.tc.tcUnmodelled = true → exec (.atcLookup acc la) s = .next (refusedWith s .tcUnmodelled))
    ∧ (s.regs.tc.tcUnmodelled = false → NoHit s (functionCode acc) la →
        exec (.atcLookup acc la) s = .next (answered s .atcMiss))
    ∧ (s.regs.tc.tcUnmodelled = false → ∀ k e, LowestHit s (functionCode acc) la k e →
        exec (.atcLookup acc la) s = .next (answered s (.atcHit
          { index := k, pa := (e.ppage &&& ~~~s.regs.tc.pageMask) ||| (la &&& s.regs.tc.pageMask)
            ci := e.ci, wp := e.wp, m := e.m })))
    ∧ (functionCode acc).toNat = (if acc.supervisor then 4 else 0) + (if acc.data then 1 else 2)

/-- R379, by the rules of R372 and R373: ATC_INSERT writes one entry, at the lowest free index, else at `atc_next`,
which moves on, or at a drawn index. -/
def Obligations.AtcInsertFillsTheVictim : Prop :=
  ∀ (sup dat ci wp m : Bool) (la pa : Word) (s : State) (e : AtcEntry), s.atc.length = 22 →
    e = { valid := true, fc := functionCode ⟨sup, dat, false⟩, ltag := la &&& ~~~s.regs.tc.pageMask
          ppage := pa &&& ~~~s.regs.tc.pageMask, b := false, ci := ci, wp := wp, m := m } →
    decode [BitVec.ofNat 32 (0x25 + sup.toNat * 0x100 + dat.toNat * 0x200 + ci.toNat * 0x4000 + wp.toNat * 0x8000
      + m.toNat * 0x10000), la, pa] = .instr (.atcInsert sup dat ci wp m la pa)
    ∧ (s.regs.tc.tcUnmodelled = true →
        exec (.atcInsert sup dat ci wp m la pa) s = .next (refusedWith s .tcUnmodelled))
    ∧ (s.regs.tc.tcUnmodelled = false → s.params.atcMode = .alwaysMiss →
        exec (.atcInsert sup dat ci wp m la pa) s = .next (answered s .unit))
    ∧ (s.regs.tc.tcUnmodelled = false → s.params.atcMode = .normal →
        (∀ k x, s.atc[k]? = some x → x.valid = false → (∀ j < k, ∀ y, s.atc[j]? = some y → y.valid = true) →
          exec (.atcInsert sup dat ci wp m la pa) s = .next (answered { s with atc := s.atc.set k e } .unit))
        ∧ ((∀ x ∈ s.atc, x.valid = true) → s.params.atcVictim = .fifo →
          ∃ n : Fin 22, n.val = (s.atcNext.val + 1) % 22
            ∧ exec (.atcInsert sup dat ci wp m la pa) s
              = .next (answered { s with atc := s.atc.set s.atcNext.val e, atcNext := n } .unit))
        ∧ ((∀ x ∈ s.atc, x.valid = true) → s.params.atcVictim = .draw →
          ∃ k : Fin 22, exec (.atcInsert sup dat ci wp m la pa) s
            = .next (answered { s with atc := s.atc.set k.val e, draws := s.draws + 1 } .unit)))

/-- R150: no step makes an ATC entry whose page fields have a bit below bit 8, so that the packed form is lossless for
every entry the block can create. -/
def Obligations.AtcEntriesStayPageAligned : Prop :=
  ∀ s t : State, DecodedAgrees s.regs → AtcAligned s → step s = .next t → AtcAligned t

/-- R150: the packed form of an entry, and that unpacking inverts it for every entry the block can create. -/
def Obligations.PackedEntryIsLossless : Prop :=
  ∀ e : AtcEntry, e.ltag &&& 0xFF = 0 → e.ppage &&& 0xFF = 0 →
    (packTag e).toNat = e.ltag.toNat + e.fc.toNat * 2 + e.valid.toNat
    ∧ (packEntry e).toNat = e.ppage.toNat + e.m.toNat * 8 + e.wp.toNat * 4 + e.ci.toNat * 2 + e.b.toNat
    ∧ unpackEntry (packTag e) (packEntry e) = e

/-- R380, R401: after a translation by a walk, every translation of the same page and function code that no window
takes is an ATC hit, with the walk's page and metadata, and changes nothing. -/
def Obligations.RepeatedTranslationHitsTheAtc : Prop :=
  ∀ (s t : State) (acc acc' : Access) (la la' : Word) (r : Translation),
    s.atc.length = 22 → s.params.atcMode = .normal →
    exec (.translate acc la) s = .next t → t.reply = .ok (.translation r) → r.via = .walk →
    functionCode acc' = functionCode acc → la' &&& ~~~s.regs.tc.pageMask = la &&& ~~~s.regs.tc.pageMask →
    NoWindow s la' acc' →
    exec (.translate acc' la') t = .next (answered t (.translation
      { pa := (r.pa &&& ~~~s.regs.tc.pageMask) ||| (la' &&& s.regs.tc.pageMask)
        ci := r.ci, wp := r.wp, m := r.m, via := .atc }))

/-! ### The transparent windows -/

/-- R345, R346, by R341, R342 and R343: the result code of a window, from the bits of its raw register. -/
def Obligations.WindowMatchFromRawBits : Prop :=
  ∀ (acc : Access) (la : Word) (s : State),
    decode [accHeader 0x21 acc, la] = .instr (.tt0Match acc la)
    ∧ decode [accHeader 0x22 acc, la] = .instr (.tt1Match acc la)
    ∧ (s.regs.tt0 = decodeTt s.regs.tt0Raw →
        ∃ n, WindowCode s.params s.regs.tt0Raw la acc n
          ∧ exec (.tt0Match acc la) s = .next (answered s (.code n)))
    ∧ (s.regs.tt1 = decodeTt s.regs.tt1Raw →
        ∃ n, WindowCode s.params s.regs.tt1Raw la acc n
          ∧ exec (.tt1Match acc la) s = .next (answered s (.code n)))

/-- R344, R347, R348, R349: TT0's result is final unless it is NoMatch; a match answers the address itself and a
direction result faults, with no walk, no ATC change and whatever TC holds. -/
def Obligations.WindowsComeFirst : Prop :=
  ∀ (acc : Access) (la : Word) (s : State),
    (ttMatch s.params s.regs.tt0 la acc = .okMatch →
      exec (.translate acc la) s
        = .next (answered s (.translation ⟨la, s.regs.tt0.ci, false, false, .tt0⟩)))
    ∧ (∀ r, (r = .noRead ∨ r = .noWrite) → ttMatch s.params s.regs.tt0 la acc = r →
      exec (.translate acc la) s = .next (faulted s (directionRecord s la acc 0 r) none))
    ∧ (ttMatch s.params s.regs.tt0 la acc = .noMatch → ttMatch s.params s.regs.tt1 la acc = .okMatch →
      exec (.translate acc la) s
        = .next (answered s (.translation ⟨la, s.regs.tt1.ci, false, false, .tt1⟩)))
    ∧ (∀ r, (r = .noRead ∨ r = .noWrite) → ttMatch s.params s.regs.tt0 la acc = .noMatch →
      ttMatch s.params s.regs.tt1 la acc = r →
      exec (.translate acc la) s = .next (faulted s (directionRecord s la acc 1 r) none))

/-! ### The physical space -/

/-- R82, R84, R203 to R205, R220, R224, R228: a physical read of a bank with a store answers the big-endian value at
`pa & M`, at any alignment, and is refused past the end of the mirror; it changes nothing. -/
def Obligations.PhysicalReadAnswersStoreBytes : Prop :=
  ∀ (w : Width) (pa : Word) (s : State) (m : Memory) (size o : Nat),
    storeOf s (bankAt s.slots (pa.toNat / 0x10000)) = some (m, size) → ¬ OverlaidRead s pa →
    o = pa.toNat &&& (size - 1) →
    (size - 1 < o + widthBytes w - 1 → exec (preadOf w pa) s = .next (refusedWith s .mirrorEnd))
    ∧ (o + widthBytes w - 1 ≤ size - 1 →
      ∃ v, v.toNat = bigEndian m o w ∧ exec (preadOf w pa) s = .next (answered s (.value w v)))

/-- R226: a ROM read that the overlay takes is the read of RAM at OVERLAY_RAM_BASE + pa, whole, or a refusal where that
slot is no RAM. -/
def Obligations.OverlayRedirectsRomReads : Prop :=
  ∀ (w : Width) (pa : Word) (s : State), OverlaidRead s pa →
    (∀ b, bankAt s.slots ((s.params.overlayRamBase + pa).toNat / 0x10000) = .ram b →
      exec (preadOf w pa) s = exec (preadOf w (s.params.overlayRamBase + pa)) s)
    ∧ ((∀ b, bankAt s.slots ((s.params.overlayRamBase + pa).toNat / 0x10000) ≠ .ram b) →
      exec (preadOf w pa) s = .next (refusedWith s .config))

/-- R230 to R233, R235: the Empty and the BusErr bank, every width and direction. -/
def Obligations.EmptyAndBusErrBanks : Prop :=
  ∀ (w : Width) (pa v : Word) (s : State),
    (bankAt s.slots (pa.toNat / 0x10000) = .busErr →
      exec (preadOf w pa) s = .next (faulted s (busErrorRecord s pa w false) (some 0))
      ∧ exec (pwriteOf w pa v) s = .next (faulted s (busErrorRecord s pa w true) none))
    ∧ (bankAt s.slots (pa.toNat / 0x10000) = .empty →
      (w ≠ .long →
        exec (preadOf w pa) s = .next (faulted s (busErrorRecord s pa w false) (some 0))
        ∧ exec (pwriteOf w pa v) s = .next (faulted s (busErrorRecord s pa w true) none))
      ∧ exec (.pread32 pa) s = .next (answered s (.value .long pa))
      ∧ (emptyOwnerAt s.params (pa.toNat / 0x10000) = none →
        exec (.pwrite32 pa v) s = .next (faulted s (busErrorRecord s pa .long true) none))
      ∧ ∀ b r m off, emptyOwnerAt s.params (pa.toNat / 0x10000) = some b → s.params.ram[b]? = some r →
          s.stores.ram[b]? = some m → m.wf = true → off = (pa - r.base).toNat % r.size →
          (r.size - 1 < off + 3 → exec (.pwrite32 pa v) s = .next (refusedWith s .mirrorEnd))
          ∧ (off + 3 ≤ r.size - 1 → ∃ m', HoldsAt m m' off .long v
            ∧ exec (.pwrite32 pa v) s
              = .next (answered { s with stores := putStore s.stores (.ram b) m' } .unit)))

/-- R237, R239: an I/O access asks the collaborator with the history so far and a fresh choice, records the access, and
answers its value or its bus error. What the collaborator answers is free (R238, log entry 8). -/
def Obligations.IoBankAsksTheCollaborator : Prop :=
  ∀ (w : Width) (pa v : Word) (s : State), bankAt s.slots (pa.toNat / 0x10000) = .io →
    (∀ x be, x.toNat = (Config.ioRead s.ioHistory w pa s.diagPc (Config.ioChoice s.draws)).1.toNat % 2 ^ (8 * widthBytes w) →
      be = (Config.ioRead s.ioHistory w pa s.diagPc (Config.ioChoice s.draws)).2 →
      exec (preadOf w pa) s = .next
        (if be then
          faulted { s with ioHistory := s.ioHistory ++ [.read w pa x be s.diagPc], draws := s.draws + 1 }
            (busErrorRecord s pa w false) (some 0)
        else
          answered { s with ioHistory := s.ioHistory ++ [.read w pa x be s.diagPc], draws := s.draws + 1 }
            (.value w x)))
    ∧ (∀ x be, x.toNat = v.toNat % 2 ^ (8 * widthBytes w) →
      be = Config.ioWrite s.ioHistory w pa x s.diagPc (Config.ioChoice s.draws) →
      exec (pwriteOf w pa v) s = .next
        (if be then
          faulted { s with ioHistory := s.ioHistory ++ [.write w pa x be s.diagPc], draws := s.draws + 1 }
            (busErrorRecord s pa w true) none
        else
          answered { s with ioHistory := s.ioHistory ++ [.write w pa x be s.diagPc], draws := s.draws + 1 } .unit))

/-- R82, R84, R206 to R208, R221, R225, R228: a physical write of RAM or video stores the value's bytes, the most
significant first, at `pa & M` and leaves every other byte and everything else as it was; past the end of the mirror it
is refused; a write of ROM is logged and discarded. -/
def Obligations.PhysicalWriteStoresItsBytes : Prop :=
  ∀ (w : Width) (pa v : Word) (s : State) (m : Memory) (size o : Nat),
    storeOf s (bankAt s.slots (pa.toNat / 0x10000)) = some (m, size) → m.wf = true → o = pa.toNat &&& (size - 1) →
    (bankAt s.slots (pa.toNat / 0x10000) = .rom → ∀ x, x.toNat = v.toNat % 2 ^ (8 * widthBytes w) →
      exec (pwriteOf w pa v) s = .next (answered
        { s with diagLog := s.diagLog ++ [.romWriteDiscarded w pa x s.diagPc] } .unit))
    ∧ (bankAt s.slots (pa.toNat / 0x10000) ≠ .rom →
      (size - 1 < o + widthBytes w - 1 → exec (pwriteOf w pa v) s = .next (refusedWith s .mirrorEnd))
      ∧ (o + widthBytes w - 1 ≤ size - 1 → ∃ m', HoldsAt m m' o w v
        ∧ exec (pwriteOf w pa v) s = .next (answered
          { s with stores := putStore s.stores (bankAt s.slots (pa.toNat / 0x10000)) m' } .unit)))

/-- R83, R92, R213: a Long written through one slot of a RAM or video bank is read, byte by byte, word by word and
whole, through every address that reaches the same bank and masks to the same offset. -/
def Obligations.WriteIsReadThroughEveryAlias : Prop :=
  ∀ (s t : State) (pa pa' v : Word) (m : Memory) (size o : Nat),
    storeOf s (bankAt s.slots (pa.toNat / 0x10000)) = some (m, size) → m.wf = true →
    bankAt s.slots (pa.toNat / 0x10000) ≠ .rom →
    bankAt s.slots (pa'.toNat / 0x10000) = bankAt s.slots (pa.toNat / 0x10000) →
    o = pa.toNat &&& (size - 1) → o + 3 ≤ size - 1 →
    exec (.pwrite32 pa v) s = .next t →
    (∀ i < 4, pa'.toNat &&& (size - 1) = o + i →
      exec (.pread8 pa') t = .next (answered t (.value .byte ((v >>> (24 - 8 * i)) &&& 0xFF))))
    ∧ (pa'.toNat &&& (size - 1) = o → exec (.pread16 pa') t = .next (answered t (.value .word (v >>> 16))))
    ∧ (pa'.toNat &&& (size - 1) = o + 2 →
      exec (.pread16 pa') t = .next (answered t (.value .word (v &&& 0xFFFF))))
    ∧ (pa'.toNat &&& (size - 1) = o → exec (.pread32 pa') t = .next (answered t (.value .long v)))

/-- R211: MAP writes exactly its range of slots and nothing else, or is refused; an undeclared RAM bank is an illegal
command (R163, R164). -/
def Obligations.MapWritesExactlyItsSlots : Prop :=
  ∀ (bank : BankRef) (start count : Word) (s : State),
    (bank.encodable = true → decode [0x4A, codeOfBank bank, start, count] = .instr (.map bank start count))
    ∧ (∀ b, bank = .ram b → s.params.ram.length ≤ b →
      exec (.map bank start count) s = .next (refusedWith s .illegalCommand))
    ∧ ((∀ b, bank = .ram b → b < s.params.ram.length) →
      (65536 < start.toNat + count.toNat → exec (.map bank start count) s = .next (refusedWith s .mapRange))
      ∧ (start.toNat + count.toNat ≤ 65536 → ∃ table,
        exec (.map bank start count) s = .next (answered { s with slots := table } .unit)
        ∧ ∀ k, bankAt table k
          = if start.toNat ≤ k ∧ k < start.toNat + count.toNat then bank else bankAt s.slots k))

/-- R212: every step keeps the table covering the 65536 slots, each with a legal bank. -/
def Obligations.SlotCoverageKept : Prop :=
  ∀ s t : State, SlotsCovered s → step s = .next t → SlotsCovered t

/-- R209, R210, R222, R227, R229, R234, R236, R240: the host view and the bounds check of every bank. That the fault of
TO_HOST is logged (R452) rests on log entry 13. -/
def Obligations.HostViewsAndBounds : Prop :=
  ∀ (pa size : Word) (s : State),
    decode [0x48, pa] = .instr (.toHost pa) ∧ decode [0x49, pa, size] = .instr (.boundsCheck pa size)
    ∧ match bankAt s.slots (pa.toNat / 0x10000) with
      | .ram b => ∀ r, s.params.ram[b]? = some r →
          exec (.toHost pa) s = .next (answered s (.hostRef ⟨.ram b, pa.toNat &&& (r.size - 1)⟩))
          ∧ exec (.boundsCheck pa size) s = .next (answered s (.bool (decide (size.toNat < s.params.totalRamSize))))
      | .rom =>
          exec (.toHost pa) s = .next (answered s (.hostRef ⟨.rom, pa.toNat &&& (s.params.romSize - 1)⟩))
          ∧ exec (.boundsCheck pa size) s = .next (answered s (.bool (decide (size.toNat < s.params.romSize))))
      | .videoMono =>
          exec (.toHost pa) s = .next (answered s (.hostRef ⟨.videoMono, pa.toNat &&& (s.params.vmonoSize - 1)⟩))
          ∧ exec (.boundsCheck pa size) s = .next (answered s (.bool (decide (size.toNat < s.params.vmonoSize))))
      | .videoColor =>
          exec (.toHost pa) s = .next (answered s (.hostRef ⟨.videoColor, pa.toNat &&& (s.params.vcolorSize - 1)⟩))
          ∧ exec (.boundsCheck pa size) s = .next (answered s (.bool (decide (size.toNat < s.params.vcolorSize))))
      | .empty | .busErr | .io =>
          (∃ f, f.kind = .busError ∧ exec (.toHost pa) s = .next (faulted s f none))
          ∧ exec (.boundsCheck pa size) s = .next (answered s (.bool false))

/-- R415, R416, R474: the introspection queries answer and change nothing. -/
def Obligations.QueriesAnswerAndChangeNothing : Prop :=
  ∀ (pa : Word) (s : State),
    decode [0x50, pa] = .instr (.regionName pa) ∧ decode [0x51] = .instr .queryDecoded
    ∧ exec .queryDecoded s
        = .next (answered s (.decoded ⟨s.regs.tc, s.regs.srp, s.regs.crp, s.regs.tt0, s.regs.tt1⟩))
    ∧ match bankAt s.slots (pa.toNat / 0x10000) with
      | .ram b => ∀ r, s.params.ram[b]? = some r → exec (.regionName pa) s = .next (answered s (.name r.name))
      | .rom => exec (.regionName pa) s = .next (answered s (.name s.params.romName))
      | .videoMono => exec (.regionName pa) s = .next (answered s (.name s.params.vmonoName))
      | .videoColor => exec (.regionName pa) s = .next (answered s (.name s.params.vcolorName))
      | .empty => exec (.regionName pa) s = .next (answered s (.name s.params.emptyName))
      | .busErr => exec (.regionName pa) s = .next (answered s (.name s.params.busErrName))
      | .io => exec (.regionName pa) s = .next (answered s (.name s.params.ioName))

/-! ### The table walk -/

/-- R300: WALK ends with a result, a fault of one of four kinds whose record has the address, the access and the level,
or a refusal, and before that it changes the two histories and nothing else. -/
def Obligations.WalkChangesOnlyTheHistories : Prop :=
  ∀ (acc : Access) (la : Word) (s t : State), exec (.walk acc la) s = .next t →
    ∃ u, FetchFrame s u ∧
      ((∃ r, t = answered u (.walk r)) ∨ (∃ r, t = refusedWith u r)
      ∨ ∃ f, t = faulted u f none ∧ f.la = some la ∧ f.acc = some acc ∧ f.level ≠ none
        ∧ (f.kind = .busError ∨ f.kind = .mmuInvalidDescriptor ∨ f.kind = .mmuLimitViolation
          ∨ f.kind = .mmuSupervisorViolation))

/-- R301 to R305, R310 to R314: the root pointer WALK uses; the fault of an invalid one; the result of one that is a page;
a root of type 2 with a function-code level, whose index the root's limit bounds; and a root of type 3, from which level
A and level B are 8-byte tables, the limit of a table descriptor bounding the index into the table it points to. -/
def Obligations.WalkFromTheRoot : Prop :=
  ∀ (acc : Access) (la : Word) (s : State) (rp : RpDecoded) (pm rem fi ia ib : Word),
    s.regs.tc.tcUnmodelled = false → pm = s.regs.tc.pageMask →
    rp = (if s.regs.tc.sre = true ∧ acc.supervisor = true then s.regs.srp else s.regs.crp) →
    rem = (if s.regs.tc.present.a then s.regs.tc.table.a.mask else 0)
      ||| (if s.regs.tc.present.b then s.regs.tc.table.b.mask else 0)
      ||| (if s.regs.tc.present.c then s.regs.tc.table.c.mask else 0)
      ||| (if s.regs.tc.present.d then s.regs.tc.table.d.mask else 0) →
    fi.toNat = (functionCode acc).toNat →
    ia = (la &&& s.regs.tc.table.a.mask) >>> s.regs.tc.table.a.shift →
    ib = (la &&& s.regs.tc.table.b.mask) >>> s.regs.tc.table.b.shift →
    (rp.dt = 0 → exec (.walk acc la) s
      = .next (faulted s (walkRecord s .mmuInvalidDescriptor la acc .root none) none))
    ∧ (rp.dt = 1 → s.params.earlyTermOffset = .pageOffsetOnly → exec (.walk acc la) s
      = .next (answered s (.walk ⟨(rp.tableAddress &&& ~~~pm) ||| (la &&& pm), false, false, false⟩)))
    ∧ (rp.dt = 1 → s.params.earlyTermOffset = .remainingIndexBits → exec (.walk acc la) s
      = .next (answered s (.walk
          ⟨((rp.tableAddress &&& ~~~pm) + (la &&& rem &&& ~~~pm)) ||| (la &&& pm), false, false, false⟩)))
    ∧ (rp.dt = 2 → s.regs.tc.fcl = true →
      (¬ WithinLimit rp.limitIsLower rp.limit fi → s.params.limitCheck = .fault → exec (.walk acc la) s
        = .next (faulted s (walkRecord s .mmuLimitViolation la acc .fc (some (rp.tableAddress + fi * 4))) none))
      ∧ (WithinLimit rp.limitIsLower rp.limit fi →
        ∀ d0, physRead .long (rp.tableAddress + fi * 4) s = (.ok d0, s) →
        (d0 &&& 3 = 0 → exec (.walk acc la) s = .next (faulted s
          (walkRecord s .mmuInvalidDescriptor la acc .fc (some (rp.tableAddress + fi * 4))) none))
        ∧ (d0 &&& 3 = 1 → exec (.walk acc la) s = .next (answered s (.walk
          { pa := if s.params.earlyTermOffset = .pageOffsetOnly then (d0 &&& 0xFFFFFF00 &&& ~~~pm) ||| (la &&& pm)
              else ((d0 &&& 0xFFFFFF00 &&& ~~~pm) + (la &&& rem &&& ~~~pm)) ||| (la &&& pm)
            ci := d0.getLsbD 6, wp := d0.getLsbD 2, m := d0.getLsbD 4 })))
        ∧ (d0 &&& 3 = 2 → s.regs.tc.present.a = true → s.regs.tc.lastTableIndex = .a →
          ∀ d1, physRead .long ((d0 &&& 0xFFFFFFF0) + ia * 4) s = (.ok d1, s) → d1 &&& 3 = 1 →
          exec (.walk acc la) s = .next (answered s (.walk
            { pa := (d1 &&& 0xFFFFFF00 &&& ~~~pm) ||| (la &&& pm), ci := d1.getLsbD 6
              wp := d0.getLsbD 2 || d1.getLsbD 2, m := d1.getLsbD 4 })))))
    ∧ (rp.dt = 3 → s.regs.tc.fcl = false → s.regs.tc.present = ⟨true, true, false, false⟩ →
      s.regs.tc.lastTableIndex = .b → WithinLimit rp.limitIsLower rp.limit ia →
      ∀ d0 e0, physRead .long (rp.tableAddress + ia * 8) s = (.ok d0, s) →
        physRead .long (rp.tableAddress + ia * 8 + 4) s = (.ok e0, s) → d0 &&& 3 = 3 →
        ¬ (s.params.supervisorCheck = true ∧ acc.supervisor = false ∧ d0.getLsbD 8 = true) →
        (¬ WithinLimit (d0.getLsbD 31) (rawField d0.toNat 16 15) ib → s.params.limitCheck = .fault →
          exec (.walk acc la) s = .next (faulted s (walkRecord s .mmuLimitViolation la acc (.table .b)
            (some ((e0 &&& 0xFFFFFFF0) + ib * 8))) none))
        ∧ (WithinLimit (d0.getLsbD 31) (rawField d0.toNat 16 15) ib →
          ∀ d1 e1, physRead .long ((e0 &&& 0xFFFFFFF0) + ib * 8) s = (.ok d1, s) →
          physRead .long ((e0 &&& 0xFFFFFFF0) + ib * 8 + 4) s = (.ok e1, s) → d1 &&& 3 = 1 →
          exec (.walk acc la) s
            = if s.params.supervisorCheck = true ∧ acc.supervisor = false ∧ d1.getLsbD 8 = true then
              .next (faulted s (walkRecord s .mmuSupervisorViolation la acc (.table .b)
                (some ((e0 &&& 0xFFFFFFF0) + ib * 8))) none)
            else .next (answered s (.walk
              { pa := (e1 &&& 0xFFFFFF00 &&& ~~~pm) ||| (la &&& pm), ci := d1.getLsbD 6
                wp := d0.getLsbD 2 || d1.getLsbD 2, m := d1.getLsbD 4 }))))

/-- R132, R303 to R307, R310, R314: a walk through a short table at one level to a short page descriptor at a later one,
the last, with every descriptor readable. The levels between, before and after that are not present are skipped
(R265). -/
def Obligations.WalkOfTwoShortLevels : Prop :=
  ∀ (acc : Access) (la d0 d1 i0 i1 : Word) (s : State) (rp : RpDecoded) (pm : Word) (l k : TableLevel),
    s.regs.tc.tcUnmodelled = false → pm = s.regs.tc.pageMask → s.regs.tc.fcl = false →
    levelIndex l < levelIndex k → s.regs.tc.lastTableIndex = k →
    (∀ j, levelIndex j ≤ levelIndex k → (levelGet s.regs.tc.present j = true ↔ j = l ∨ j = k)) →
    rp = (if s.regs.tc.sre = true ∧ acc.supervisor = true then s.regs.srp else s.regs.crp) → rp.dt = 2 →
    i0 = (la &&& (levelGet s.regs.tc.table l).mask) >>> (levelGet s.regs.tc.table l).shift →
    i1 = (la &&& (levelGet s.regs.tc.table k).mask) >>> (levelGet s.regs.tc.table k).shift →
    WithinLimit rp.limitIsLower rp.limit i0 →
    physRead .long (rp.tableAddress + i0 * 4) s = (.ok d0, s) → d0 &&& 3 = 2 →
    physRead .long ((d0 &&& 0xFFFFFFF0) + i1 * 4) s = (.ok d1, s) → d1 &&& 3 = 1 →
    exec (.walk acc la) s = .next (answered s (.walk
      { pa := (d1 &&& 0xFFFFFF00 &&& ~~~pm) ||| (la &&& pm), ci := d1.getLsbD 6
        wp := d0.getLsbD 2 || d1.getLsbD 2, m := d1.getLsbD 4 }))

/-- R306, R310, R311: a page descriptor at level A ends the walk there, under both early-termination options; an invalid
one faults there. -/
def Obligations.WalkEndsEarlyAtLevelA : Prop :=
  ∀ (acc : Access) (la d0 ia : Word) (s : State) (rp : RpDecoded) (pm rem : Word),
    s.regs.tc.tcUnmodelled = false → pm = s.regs.tc.pageMask → s.regs.tc.fcl = false →
    s.regs.tc.present.a = true → s.regs.tc.lastTableIndex ≠ .a →
    rp = (if s.regs.tc.sre = true ∧ acc.supervisor = true then s.regs.srp else s.regs.crp) → rp.dt = 2 →
    ia = (la &&& s.regs.tc.table.a.mask) >>> s.regs.tc.table.a.shift →
    rem = (if s.regs.tc.present.b then s.regs.tc.table.b.mask else 0)
      ||| (if s.regs.tc.present.c then s.regs.tc.table.c.mask else 0)
      ||| (if s.regs.tc.present.d then s.regs.tc.table.d.mask else 0) →
    (if rp.limitIsLower then rp.limit ≤ ia.toNat else ia.toNat ≤ rp.limit) →
    physRead .long (rp.tableAddress + ia * 4) s = (.ok d0, s) →
    (d0 &&& 3 = 0 → exec (.walk acc la) s = .next (faulted s
      (walkRecord s .mmuInvalidDescriptor la acc (.table .a) (some (rp.tableAddress + ia * 4))) none))
    ∧ (d0 &&& 3 = 1 → exec (.walk acc la) s = .next (answered s (.walk
      { pa := if s.params.earlyTermOffset = .pageOffsetOnly then (d0 &&& 0xFFFFFF00 &&& ~~~pm) ||| (la &&& pm)
          else ((d0 &&& 0xFFFFFF00 &&& ~~~pm) + (la &&& rem &&& ~~~pm)) ||| (la &&& pm)
        ci := d0.getLsbD 6, wp := d0.getLsbD 2, m := d0.getLsbD 4 })))

/-- R307, R309, R313: an indirect descriptor at the last level, the only level present (those before it, of width 0, are
skipped, R265). Its target, of 4 bytes for DT 2 and of 8 for DT 3, is the page descriptor, or the walk faults there: there
is no second indirection. -/
def Obligations.WalkFollowsOneIndirection : Prop :=
  ∀ (acc : Access) (la d0 d1 il ta : Word) (s : State) (rp : RpDecoded) (pm : Word) (l : TableLevel),
    s.regs.tc.tcUnmodelled = false → pm = s.regs.tc.pageMask → s.regs.tc.fcl = false →
    s.regs.tc.lastTableIndex = l → (∀ j, levelIndex j ≤ levelIndex l → (levelGet s.regs.tc.present j = true ↔ j = l)) →
    rp = (if s.regs.tc.sre = true ∧ acc.supervisor = true then s.regs.srp else s.regs.crp) → rp.dt = 2 →
    il = (la &&& (levelGet s.regs.tc.table l).mask) >>> (levelGet s.regs.tc.table l).shift →
    WithinLimit rp.limitIsLower rp.limit il →
    physRead .long (rp.tableAddress + il * 4) s = (.ok d0, s) → ta = d0 &&& 0xFFFFFFFC →
    physRead .long ta s = (.ok d1, s) →
    (d0 &&& 3 = 2 →
      (d1 &&& 3 = 1 → exec (.walk acc la) s = .next (answered s (.walk
        { pa := (d1 &&& 0xFFFFFF00 &&& ~~~pm) ||| (la &&& pm), ci := d1.getLsbD 6, wp := d1.getLsbD 2
          m := d1.getLsbD 4 })))
      ∧ (d1 &&& 3 ≠ 1 → exec (.walk acc la) s = .next (faulted s
        (walkRecord s .mmuInvalidDescriptor la acc .indirect (some ta)) none)))
    ∧ (d0 &&& 3 = 3 → ∀ e1, physRead .long (ta + 4) s = (.ok e1, s) →
      (d1 &&& 3 = 1 → exec (.walk acc la) s
        = if s.params.supervisorCheck = true ∧ acc.supervisor = false ∧ d1.getLsbD 8 = true then
          .next (faulted s (walkRecord s .mmuSupervisorViolation la acc .indirect (some ta)) none)
        else .next (answered s (.walk
          { pa := (e1 &&& 0xFFFFFF00 &&& ~~~pm) ||| (la &&& pm), ci := d1.getLsbD 6, wp := d1.getLsbD 2
            m := d1.getLsbD 4 })))
      ∧ (d1 &&& 3 ≠ 1 → exec (.walk acc la) s = .next (faulted s
        (walkRecord s .mmuInvalidDescriptor la acc .indirect (some ta)) none)))

/-- R305, R312, R313, R454: the checks at one table descriptor and their order: the limit, the fetch of the first and of
the second long word, the type, the S bit; and R131 to R134: the fields of the descriptor that passes them, from its one
or two long words. The record of a second long word's bus error rests on log entry 12. -/
def Obligations.DescriptorChecksInOrder : Prop :=
  ∀ (la : Word) (acc : Access) (at' : WalkAt) (idx a : Word) (pos : DescPos) (level : Level) (s : State),
    a = at'.tb + idx * (if at'.size = .four then 4 else 8) → pos ≠ .indirectTarget →
    ((at'.limit.has = true
        ∧ (if at'.limit.lower then idx.toNat < at'.limit.limit else at'.limit.limit < idx.toNat)) →
      (s.params.limitCheck = .fault → fetchCheck la acc at' idx pos level s
        = (.fault (walkRecord s .mmuLimitViolation la acc level (some a)), s))
      ∧ (s.params.limitCheck = .log → fetchCheck la acc at' idx pos level s
        = fetchCheck la acc { at' with limit := noLimit } idx pos level
            (s.log (.limitViolationLogged level idx at'.limit.limit at'.limit.lower s.diagPc)))
      ∧ (s.params.limitCheck = .off → fetchCheck la acc at' idx pos level s
        = fetchCheck la acc { at' with limit := noLimit } idx pos level s))
    ∧ (¬ (at'.limit.has = true
        ∧ (if at'.limit.lower then idx.toNat < at'.limit.limit else at'.limit.limit < idx.toNat)) →
      fetchCheck la acc at' idx pos level s = fetchCheck la acc { at' with limit := noLimit } idx pos level s)
    ∧ (at'.limit = noLimit →
      (∀ f t, physRead .long a s = (.fault f, t) → fetchCheck la acc at' idx pos level s
        = (.fault { walkRecord s .busError la acc level (some a) with pa := some a }, t))
      ∧ (∀ d0 t, physRead .long a s = (.ok d0, t) →
        (at'.size = .four → fetchCheck la acc at' idx pos level s
          = if d0 &&& 3 = 0 then (.fault (walkRecord t .mmuInvalidDescriptor la acc level (some a)), t)
            else (.ok (shortDescriptor d0 pos), t))
        ∧ (at'.size = .eight → ∀ f u, physRead .long (a + 4) t = (.fault f, u) → fetchCheck la acc at' idx pos level s
          = (.fault { walkRecord t .busError la acc level (some (a + 4)) with pa := some (a + 4) }, u))
        ∧ (at'.size = .eight → ∀ d1 u, physRead .long (a + 4) t = (.ok d1, u) →
          fetchCheck la acc at' idx pos level s
          = if d0 &&& 3 = 0 then (.fault (walkRecord u .mmuInvalidDescriptor la acc level (some a)), u)
            else if s.params.supervisorCheck = true ∧ acc.supervisor = false ∧ d0.getLsbD 8 = true
                ∧ (d0 &&& 3 = 1 ∨ pos = .nonLast) then
              (.fault (walkRecord u .mmuSupervisorViolation la acc level (some a)), u)
            else (.ok (longDescriptor d0 d1 pos), u))))

/-- R308: a walk fetches at most six descriptors: the stores enter it only through the long words at six addresses and
those next to them, so that with any other stores that read alike there it ends alike. It makes at most twelve recorded
I/O accesses and as many draws, and logs at most one limit violation for each of its five tables and one fault. -/
def Obligations.WalkFetchesAreBounded : Prop :=
  ∀ (acc : Access) (la : Word) (s t : State), exec (.walk acc la) s = .next t →
    t.ioHistory.length ≤ s.ioHistory.length + 12 ∧ t.draws ≤ s.draws + 12
    ∧ t.diagLog.length ≤ s.diagLog.length + 6
    ∧ ∃ descs : List Word, descs.length ≤ 6 ∧ ∀ m : Stores,
        (∀ a ∈ descs, (physRead .long a { s with stores := m }).1 = (physRead .long a s).1
          ∧ (physRead .long (a + 4) { s with stores := m }).1 = (physRead .long (a + 4) s).1) →
        exec (.walk acc la) { s with stores := m } = .next { t with stores := m }

/-- R316: two walks of one access under the same registers, options and physical memory give the same result or the
same fault, if no I/O slot is fetched, whatever the rest of the state is. -/
def Obligations.WalkIsDeterministic : Prop :=
  ∀ (acc : Access) (la : Word) (s₁ s₂ t₁ t₂ : State),
    s₁.regs.tc = s₂.regs.tc → s₁.regs.srp = s₂.regs.srp → s₁.regs.crp = s₂.regs.crp → s₁.params = s₂.params →
    s₁.slots = s₂.slots → s₁.stores = s₂.stores → s₁.bootOverlay = s₂.bootOverlay → s₁.diagPc = s₂.diagPc →
    exec (.walk acc la) s₁ = .next t₁ → exec (.walk acc la) s₂ = .next t₂ → t₁.ioHistory = s₁.ioHistory →
    t₁.reply = t₂.reply ∧ t₂.ioHistory = s₂.ioHistory

/-- R314: the walk never checks `wp` against the direction: a walk that succeeds gives the same result and leaves the
same state for a read and for a write. -/
def Obligations.WriteProtectIsNeverChecked : Prop :=
  ∀ (acc : Access) (b : Bool) (la : Word) (s t : State) (r : WalkResult),
    exec (.walk acc la) s = .next t → t.reply = .ok (.walk r) → exec (.walk { acc with write := b } la) s = .next t

/-! ### The pipeline -/

/-- R401, R402: TRANSLATE where no window matches: the identity, the refusal, the ATC's answer, or a walk and one
insertion; a walk that faults inserts nothing. -/
def Obligations.TranslateWithoutWindow : Prop :=
  ∀ (acc : Access) (la : Word) (s : State), NoWindow s la acc →
    (s.regs.tc.enabled = false →
      exec (.translate acc la) s = .next (answered s (.translation ⟨la, false, false, false, .identity⟩)))
    ∧ (s.regs.tc.enabled = true → s.regs.tc.tcUnmodelled = true →
      exec (.translate acc la) s = .next (refusedWith s .tcUnmodelled))
    ∧ (s.regs.tc.enabled = true → s.regs.tc.tcUnmodelled = false →
      (∀ k e, LowestHit s (functionCode acc) la k e →
        exec (.translate acc la) s = .next (answered s (.translation
          ⟨(e.ppage &&& ~~~s.regs.tc.pageMask) ||| (la &&& s.regs.tc.pageMask), e.ci, e.wp, e.m, .atc⟩)))
      ∧ (NoHit s (functionCode acc) la →
        (∀ r u, walk la acc s = (.ok r, u) → exec (.translate acc la) s
          = .next (answered (atcInsert la (functionCode acc) r.pa r.ci r.wp r.m u)
              (.translation ⟨r.pa, r.ci, r.wp, r.m, .walk⟩)))
        ∧ (∀ f u, walk la acc s = (.fault f, u) → exec (.translate acc la) s = .next (faulted u f none))
        ∧ (∀ f u, walk la acc s = (.refuse f, u) → exec (.translate acc la) s = .next (refusedWith u f))))

/-- R403, R405 to R410, R451: a logical access is refused where it is paged and crosses a page; else it is translated
once, at its first byte, and the physical access at that address follows, with `la` and `acc` added to a fault. An access
that the bank refuses leaves what the walk left, with no insertion (R13, R461): log entry 19. -/
def Obligations.LogicalAccessIsTranslatedOnce : Prop :=
  ∀ (w : Width) (sup dat : Bool) (la v : Word) (s : State) (racc wacc : Access),
    racc = ⟨sup, dat, false⟩ → wacc = ⟨sup, dat, true⟩ →
    (∀ acc, NoWindow s la acc → s.regs.tc.enabled = true → s.regs.tc.tcUnmodelled = false →
      la &&& ~~~s.regs.tc.pageMask
        ≠ (la + BitVec.ofNat 32 (widthBytes w - 1)) &&& ~~~s.regs.tc.pageMask →
      (acc = racc → exec (lreadOf w sup dat la) s = .next (refusedWith s .pageCross))
      ∧ (acc = wacc → exec (lwriteOf w sup dat la v) s = .next (refusedWith s .pageCross)))
    ∧ (∀ acc, (¬ NoWindow s la acc ∨ s.regs.tc.enabled = false ∨ s.regs.tc.tcUnmodelled = true
        ∨ la &&& ~~~s.regs.tc.pageMask
          = (la + BitVec.ofNat 32 (widthBytes w - 1)) &&& ~~~s.regs.tc.pageMask) →
      (acc = racc →
        (∀ f u, Machine.translate la acc s = (.fault f, u) → ∃ c, exec (lreadOf w sup dat la) s = .next (faulted u f c))
        ∧ (∀ f u, Machine.translate la acc s = (.refuse f, u) → exec (lreadOf w sup dat la) s = .next (refusedWith u f))
        ∧ (∀ t u, Machine.translate la acc s = (.ok t, u) →
          (∀ x y, physRead w t.pa u = (.ok x, y) → exec (lreadOf w sup dat la) s = .next (answered y (.value w x)))
          ∧ (∀ x y, physRead w t.pa u = (.fault x, y) → exec (lreadOf w sup dat la) s
            = .next (faulted y { x with la := some la, acc := some acc } (some 0)))
          ∧ (∀ x y, physRead w t.pa u = (.refuse x, y) → exec (lreadOf w sup dat la) s
            = .next (refusedWith (if t.via = .walk then (walk la acc s).2 else s) x))))
      ∧ (acc = wacc →
        (∀ f u, Machine.translate la acc s = (.fault f, u) → exec (lwriteOf w sup dat la v) s = .next (faulted u f none))
        ∧ (∀ f u, Machine.translate la acc s = (.refuse f, u) → exec (lwriteOf w sup dat la v) s = .next (refusedWith u f))
        ∧ (∀ t u y x, Machine.translate la acc s = (.ok t, u) → x.toNat = v.toNat % 2 ^ (8 * widthBytes w) →
          (physWrite w t.pa x u = (.ok (), y) → exec (lwriteOf w sup dat la v) s = .next (answered y .unit))
          ∧ (∀ f, physWrite w t.pa x u = (.fault f, y) → exec (lwriteOf w sup dat la v) s
            = .next (faulted y { f with la := some la, acc := some acc } none))
          ∧ (∀ f, physWrite w t.pa x u = (.refuse f, y) → exec (lwriteOf w sup dat la v) s
            = .next (refusedWith (if t.via = .walk then (walk la acc s).2 else s) f)))))

/-- R401, R405 to R410: with translation off and no window enabled, a logical read answers the bytes of the bank at the
address itself and a logical write stores its bytes there, at any alignment. -/
def Obligations.LogicalAccessWithTranslationOff : Prop :=
  ∀ (w : Width) (sup dat : Bool) (la v : Word) (s : State) (m : Memory) (size o : Nat),
    s.regs.tt0.enabled = false → s.regs.tt1.enabled = false → s.regs.tc.enabled = false →
    storeOf s (bankAt s.slots (la.toNat / 0x10000)) = some (m, size) → m.wf = true →
    o = la.toNat &&& (size - 1) → o + widthBytes w - 1 ≤ size - 1 →
    (¬ OverlaidRead s la →
      ∃ x, x.toNat = bigEndian m o w ∧ exec (lreadOf w sup dat la) s = .next (answered s (.value w x)))
    ∧ (bankAt s.slots (la.toNat / 0x10000) ≠ .rom → ∃ m', HoldsAt m m' o w v
      ∧ exec (lwriteOf w sup dat la v) s = .next (answered
        { s with stores := putStore s.stores (bankAt s.slots (la.toNat / 0x10000)) m' } .unit))

/-! ### Faults, refusals and the log -/

/-- R453: whatever the command, an operation that returns a fault changes no register, no slot, no store and no input.
That the value 0 comes with a bus error of PREAD or LREAD alone, a descriptor fetch of LREAD included, rests on log
entry 11. -/
def Obligations.FaultsChangeNoRegisterTableOrStore : Prop :=
  ∀ (i : Instr) (s t : State) (f : FaultRecord) (c : Option Word), exec i s = .next t → t.reply = .fault f c →
    t.regs = s.regs ∧ t.slots = s.slots ∧ t.stores = s.stores ∧ t.params = s.params ∧ t.loader = s.loader
      ∧ t.bootOverlay = s.bootOverlay ∧ t.diagPc = s.diagPc ∧ t.inbox = s.inbox ∧ t.refused = s.refused
      ∧ (c = some 0 ∨ c = none) ∧ (c = some 0 → f.kind = .busError)
      ∧ (c = some 0 → ∃ w a, i = preadOf w a ∨ ∃ sup dat, i = lreadOf w sup dat a)
      ∧ (∀ w pa, i = preadOf w pa → c = some 0)
      ∧ (∀ w sup dat la, i = lreadOf w sup dat la → f.kind = .busError → c = some 0)

/-- R452: an operation that returns a fault appends one `FaultReported` of that fault, as its last event, after at most
limit events; an operation that returns none appends none. -/
def Obligations.FaultIsReportedOnceAndLast : Prop :=
  ∀ (i : Instr) (s t : State), exec i s = .next t →
    (∀ f c, t.reply = .fault f c →
      ∃ l, t.diagLog = s.diagLog ++ l ++ [.faultReported f] ∧ ∀ e ∈ l, isLimitEvent e = true)
    ∧ ((∀ f c, t.reply ≠ .fault f c) → i ≠ .coldReset →
      ∃ l, t.diagLog = s.diagLog ++ l ∧ ∀ e ∈ l, ∀ f, e ≠ .faultReported f)

/-- R450: each fault kind arises only where its rule says: a bus error at an access that R241 gives one, a descriptor
fetch or TO_HOST among them; an invalid descriptor at a root of type 0 or at a descriptor whose type is 0 or is that of no
page where an indirection ends (what an I/O slot answered is not told again); a limit violation under LIMIT_CHECK = FAULT
and a supervisor violation of a user access under SUPERVISOR_CHECK = ON, both of an operation that walks; a direction
violation of one that a window answers. The address in the record of a descriptor fetch's bus error rests on log entry
12. -/
def Obligations.FaultKindsUnderTheirOptions : Prop :=
  ∀ (i : Instr) (s t : State) (f : FaultRecord) (c : Option Word), exec i s = .next t → t.reply = .fault f c →
    f.diagPc = s.diagPc
    ∧ (f.kind ≠ .busError → mayWalk i = true ∧ f.la ≠ none ∧ f.acc ≠ none)
    ∧ (f.kind = .busError →
      (∃ a, i = .toHost a ∧ storeOf s (bankAt s.slots (a.toNat / 0x10000)) = none)
      ∨ (∃ a, f.pa = some a ∧ f.descAddr = some a ∧ f.level ≠ none ∧ mayWalk i = true
        ∧ BusErrorAt s a .long false)
      ∨ ∃ a w write, f.pa = some a ∧ f.w = some w ∧ f.write = some write ∧ BusErrorAt s a w write)
    ∧ (f.kind = .mmuInvalidDescriptor → ∃ acc, f.acc = some acc ∧
      ((f.level = some .root ∧ f.descAddr = none
        ∧ (if s.regs.tc.sre = true ∧ acc.supervisor = true then s.regs.srp else s.regs.crp).dt = 0)
      ∨ ∃ a, f.descAddr = some a ∧ (bankAt s.slots (a.toNat / 0x10000) = .io
        ∨ ∃ d, physRead .long a s = (.ok d, s) ∧ (d &&& 3 = 0 ∨ (f.level = some .indirect ∧ d &&& 3 ≠ 1)))))
    ∧ (f.kind = .mmuLimitViolation → s.params.limitCheck = .fault)
    ∧ (f.kind = .mmuSupervisorViolation →
      s.params.supervisorCheck = true ∧ ∃ acc, f.acc = some acc ∧ acc.supervisor = false)
    ∧ (f.kind = .mmuDirectionViolation → ∃ la acc n r, f = directionRecord s la acc n r ∧ (r = .noRead ∨ r = .noWrite)
      ∧ ttMatch s.params (if n = 0 then s.regs.tt0 else s.regs.tt1) la acc = r)

/-- R49, R461: a refusal sets the mark, which no command but a cold reset that is answered clears. A refused operation
makes no state change of its own: it changes the mark, and the two histories where descriptors were fetched before the
refusal (log entry 19); one that does no walk changes nothing but the mark. -/
def Obligations.RefusalsMarkAndChangeNothing : Prop :=
  ∀ (i : Instr) (s t : State), exec i s = .next t →
    (∀ r, t.reply = .refuse r → t.refused = true
      ∧ ∃ u, FetchFrame s u ∧ t = refusedWith u r ∧ (mayWalk i = false → u = s))
    ∧ ((∀ r, t.reply ≠ .refuse r) → t.refused = if i = .coldReset then false else s.refused)

/-- R48, R462: no rule reads `diag_log`: a command run with any other log gives the same next state but for the log. -/
def Obligations.DiagnosticLogIsNeverRead : Prop :=
  ∀ (i : Instr) (s t : State) (l : List DiagEvent), exec i s = .next t →
    ∃ l', exec i { s with diagLog := l } = .next { t with diagLog := l' }

/-! ### Snapshot and resets -/

/-- R420, R422: SNAP_SAVE answers 216 bytes, the 54 big-endian words of the view, and changes nothing. -/
def Obligations.SnapSaveAnswersTheView : Prop :=
  decode [0x60] = .instr .snapSave
  ∧ ∀ s : State, s.atc.length = 22 → ∃ bytes, exec .snapSave s = .next (answered s (.bytes bytes))
      ∧ bytes.length = 216 ∧ (wordsOfBytes bytes).length = 54
      ∧ ∀ j < 54, (wordsOfBytes bytes)[j]? = some (snapshotWord s j)

/-- R421: what SNAP_RESTORE accepts and what it does: registers, decoded state, ATC and `atc_next` from the view, no
event, and everything else as it was; any other view is refused. That a call of another length can be issued and is
answered so is the model's choice, log entry 2. -/
def Obligations.SnapRestoreTakesTheView : Prop :=
  ∀ (view : List Word) (s : State),
    (view.length = 54 → decode (0x61 :: view) = .instr (.snapRestore view))
    ∧ (view.length ≠ 54 → ∀ pc rest, step { s with inbox := .call (0x61 :: view) pc :: rest }
        = .next (refusedWith { s with inbox := rest, diagPc := pc } .snapshot))
    ∧ ((view.length ≠ 54 ∨ view.getD 0 0 ≠ 1 ∨ view.getD 9 0 ≠ 22 ∨ 0x10000 ≤ (view.getD 8 0).toNat
        ∨ ∃ j, 10 ≤ j ∧ j < 54 ∧ view.getD j 0 &&& 0xF0 ≠ 0) →
      exec (.snapRestore view) s = .next (refusedWith s .snapshot))
    ∧ (view.length = 54 → view.getD 0 0 = 1 → view.getD 9 0 = 22 → (view.getD 8 0).toNat < 0x10000 →
      (∀ j, 10 ≤ j → j < 54 → view.getD j 0 &&& 0xF0 = 0) →
      ∃ r l, exec (.snapRestore view) s = .next (answered { s with regs := r, atc := l, atcNext := 0 } .unit)
        ∧ r.tcRaw = view.getD 1 0 ∧ r.srpRaw = view.getD 2 0 ++ view.getD 3 0
        ∧ r.crpRaw = view.getD 4 0 ++ view.getD 5 0 ∧ r.tt0Raw = view.getD 6 0 ∧ r.tt1Raw = view.getD 7 0
        ∧ r.mmusrRaw = (view.getD 8 0).setWidth 16 ∧ DecodedAgrees r ∧ l.length = 22
        ∧ ∀ k < 22, l[k]? = some (unpackEntry (view.getD (10 + 2 * k) 0) (view.getD (11 + 2 * k) 0)))

/-- R423: SNAP_RESTORE of what SNAP_SAVE answered gives back, in whatever state it runs, the same raw registers, decoded
state and ATC; only `atc_next` may differ. -/
def Obligations.SnapshotRoundTrip : Prop :=
  ∀ (s t u : State) (bytes : List Byte), DecodedAgrees s.regs → AtcAligned s → s.atc.length = 22 →
    exec .snapSave s = .next t → t.reply = .ok (.bytes bytes) →
    exec (.snapRestore (wordsOfBytes bytes)) u
      = .next (answered { u with regs := s.regs, atc := s.atc, atcNext := 0 } .unit)

/-- R501: MMU_RESET zeroes TC, TT0, TT1 and the ATC, sets SRP, CRP and MMUSR to their parameters or to drawn values,
logs nothing and changes nothing else. That three draws are counted is the model's choice, log entry 6. -/
def Obligations.MmuResetValues : Prop :=
  decode [0x70] = .instr .mmuReset
  ∧ ∀ s : State, ∃ srp crp mmusr,
      (∀ v, s.params.resetSrp = .fixed v → srp = v) ∧ (∀ v, s.params.resetCrp = .fixed v → crp = v)
      ∧ (∀ v, s.params.resetMmusr = .fixed v → mmusr = v)
      ∧ exec .mmuReset s = .next (answered { s with
          regs := { tcRaw := 0, srpRaw := srp, crpRaw := crp, tt0Raw := 0, tt1Raw := 0, mmusrRaw := mmusr
                    tc := decodeTc 0, srp := decodeRp srp, crp := decodeRp crp, tt0 := decodeTt 0, tt1 := decodeTt 0 }
          atc := List.replicate 22 ⟨false, 0, 0, 0, false, false, false, false⟩
          atcNext := 0, draws := s.draws + 3 } .unit)

/-- R500: right after MMU_RESET, from any state, every logical address translates to itself, and WALK, ATC_LOOKUP and
ATC_INSERT are refused. -/
def Obligations.ResetTranslatesToItself : Prop :=
  ∀ (s t : State) (acc : Access) (la pa : Word) (sup dat ci wp m : Bool), exec .mmuReset s = .next t →
    t.regs.tc.sumOk = false
    ∧ exec (.translate acc la) t = .next (answered t (.translation ⟨la, false, false, false, .identity⟩))
    ∧ exec (.walk acc la) t = .next (refusedWith t .tcUnmodelled)
    ∧ exec (.atcLookup acc la) t = .next (refusedWith t .tcUnmodelled)
    ∧ exec (.atcInsert sup dat ci wp m la pa) t = .next (refusedWith t .tcUnmodelled)

/-- R502, R503: COLD_RESET reads the loader's configuration; one that is not accepted is refused with no change; with
one that is, each slot holds the last MEMORY_MAP entry that covers it, every store whose contents are fixed holds
them byte by byte (an offset that an image does not list: log entry 7), both histories are empty, the mark is clear and
the MMU is reset. -/
def Obligations.ColdResetRebuilds : Prop :=
  decode [0x71] = .instr .coldReset
  ∧ ∀ s : State,
      (¬ ConfigSound s.loader → exec .coldReset s = .next (refusedWith s .config))
      ∧ (ConfigSound s.loader → ∃ t, exec .coldReset s = .next t ∧ t.reply = .ok .unit ∧ t.params = s.loader
        ∧ t.ioHistory = [] ∧ t.diagLog = [] ∧ t.refused = false
        ∧ (∀ k < 65536, bankAt t.slots k = lastMapped s.loader.memoryMap k)
        ∧ t.stores.ram.length = s.loader.ram.length
        ∧ (∀ (b : Nat) (r : RamBank) (img : Image), s.loader.ram[b]? = some r → r.init = .fixed img →
            ∃ m, t.stores.ram[b]? = some m ∧ HoldsImage m r.size img)
        ∧ HoldsImage t.stores.rom s.loader.romSize s.loader.romImage
        ∧ (∀ img, s.loader.vmonoInit = .fixed img → HoldsImage t.stores.vmono s.loader.vmonoSize img)
        ∧ (∀ img, s.loader.vcolorInit = .fixed img → HoldsImage t.stores.vcolor s.loader.vcolorSize img)
        ∧ t.regs.tcRaw = 0 ∧ t.regs.tt0Raw = 0 ∧ t.regs.tt1Raw = 0
        ∧ (∀ v, s.loader.resetSrp = .fixed v → t.regs.srpRaw = v)
        ∧ (∀ v, s.loader.resetCrp = .fixed v → t.regs.crpRaw = v)
        ∧ (∀ v, s.loader.resetMmusr = .fixed v → t.regs.mmusrRaw = v)
        ∧ DecodedAgrees t.regs ∧ t.atc = List.replicate 22 AtcEntry.zero ∧ t.atcNext = 0
        ∧ t.loader = s.loader ∧ t.bootOverlay = s.bootOverlay ∧ t.diagPc = s.diagPc ∧ t.inbox = s.inbox)

/-- R8, R503: the configuration check accepts exactly the configurations that R8 and R503 admit. That it makes no other
check rests on log entry 15. -/
def Obligations.ConfigurationCheckIsR503 : Prop :=
  ∀ p : Params, configOk p = true ↔ ConfigSound p

/-! ### The invariant -/

/-- R37, R41, R43, R44, R150, R212: the invariant holds right after reset. The configuration of the reset state is the
model's choice, log entry 5. -/
def Obligations.InvariantHoldsAtReset : Prop := Inv State.reset ∧ AtcAligned State.reset

/-- R37, R41, R43, R44, R212: every step keeps the invariant: decoded registers agree with raw ones, stores are in
canonical form, every slot has a legal bank, the parameters in force are sound and each RAM bank has its store, and the
ATC has 22 entries. -/
def Obligations.InvariantIsKept : Prop := ∀ s t : State, Inv s → step s = .next t → Inv t
end

