-- ==== Sys2Proof/Laws/State.lean ====
section
/-! SUPPORT. One lemma for each field of the state after each setter, all true by definition. -/

namespace Sys2Proof.Machine

section
variable (s : State)

@[simp] theorem State.setRegs_regs (r : Registers) : (s.setRegs r).regs = r := rfl
@[simp] theorem State.setRegs_atc (r : Registers) : (s.setRegs r).atc = s.atc := rfl
@[simp] theorem State.setRegs_atcNext (r : Registers) : (s.setRegs r).atcNext = s.atcNext := rfl
@[simp] theorem State.setRegs_slots (r : Registers) : (s.setRegs r).slots = s.slots := rfl
@[simp] theorem State.setRegs_stores (r : Registers) : (s.setRegs r).stores = s.stores := rfl
@[simp] theorem State.setRegs_ioHistory (r : Registers) : (s.setRegs r).ioHistory = s.ioHistory := rfl
@[simp] theorem State.setRegs_diagLog (r : Registers) : (s.setRegs r).diagLog = s.diagLog := rfl
@[simp] theorem State.setRegs_refused (r : Registers) : (s.setRegs r).refused = s.refused := rfl
@[simp] theorem State.setRegs_params (r : Registers) : (s.setRegs r).params = s.params := rfl
@[simp] theorem State.setRegs_loader (r : Registers) : (s.setRegs r).loader = s.loader := rfl
@[simp] theorem State.setRegs_bootOverlay (r : Registers) : (s.setRegs r).bootOverlay = s.bootOverlay := rfl
@[simp] theorem State.setRegs_diagPc (r : Registers) : (s.setRegs r).diagPc = s.diagPc := rfl
@[simp] theorem State.setRegs_inbox (r : Registers) : (s.setRegs r).inbox = s.inbox := rfl
@[simp] theorem State.setRegs_draws (r : Registers) : (s.setRegs r).draws = s.draws := rfl
@[simp] theorem State.setRegs_reply (r : Registers) : (s.setRegs r).reply = s.reply := rfl

@[simp] theorem State.setAtc_regs (l : List AtcEntry) : (s.setAtc l).regs = s.regs := rfl
@[simp] theorem State.setAtc_atc (l : List AtcEntry) : (s.setAtc l).atc = l := rfl
@[simp] theorem State.setAtc_atcNext (l : List AtcEntry) : (s.setAtc l).atcNext = s.atcNext := rfl
@[simp] theorem State.setAtc_slots (l : List AtcEntry) : (s.setAtc l).slots = s.slots := rfl
@[simp] theorem State.setAtc_stores (l : List AtcEntry) : (s.setAtc l).stores = s.stores := rfl
@[simp] theorem State.setAtc_ioHistory (l : List AtcEntry) : (s.setAtc l).ioHistory = s.ioHistory := rfl
@[simp] theorem State.setAtc_diagLog (l : List AtcEntry) : (s.setAtc l).diagLog = s.diagLog := rfl
@[simp] theorem State.setAtc_refused (l : List AtcEntry) : (s.setAtc l).refused = s.refused := rfl
@[simp] theorem State.setAtc_params (l : List AtcEntry) : (s.setAtc l).params = s.params := rfl
@[simp] theorem State.setAtc_loader (l : List AtcEntry) : (s.setAtc l).loader = s.loader := rfl
@[simp] theorem State.setAtc_bootOverlay (l : List AtcEntry) : (s.setAtc l).bootOverlay = s.bootOverlay := rfl
@[simp] theorem State.setAtc_diagPc (l : List AtcEntry) : (s.setAtc l).diagPc = s.diagPc := rfl
@[simp] theorem State.setAtc_inbox (l : List AtcEntry) : (s.setAtc l).inbox = s.inbox := rfl
@[simp] theorem State.setAtc_draws (l : List AtcEntry) : (s.setAtc l).draws = s.draws := rfl
@[simp] theorem State.setAtc_reply (l : List AtcEntry) : (s.setAtc l).reply = s.reply := rfl

@[simp] theorem State.setAtcNext_regs (i : Fin 22) : (s.setAtcNext i).regs = s.regs := rfl
@[simp] theorem State.setAtcNext_atc (i : Fin 22) : (s.setAtcNext i).atc = s.atc := rfl
@[simp] theorem State.setAtcNext_atcNext (i : Fin 22) : (s.setAtcNext i).atcNext = i := rfl
@[simp] theorem State.setAtcNext_slots (i : Fin 22) : (s.setAtcNext i).slots = s.slots := rfl
@[simp] theorem State.setAtcNext_stores (i : Fin 22) : (s.setAtcNext i).stores = s.stores := rfl
@[simp] theorem State.setAtcNext_ioHistory (i : Fin 22) : (s.setAtcNext i).ioHistory = s.ioHistory := rfl
@[simp] theorem State.setAtcNext_diagLog (i : Fin 22) : (s.setAtcNext i).diagLog = s.diagLog := rfl
@[simp] theorem State.setAtcNext_refused (i : Fin 22) : (s.setAtcNext i).refused = s.refused := rfl
@[simp] theorem State.setAtcNext_params (i : Fin 22) : (s.setAtcNext i).params = s.params := rfl
@[simp] theorem State.setAtcNext_loader (i : Fin 22) : (s.setAtcNext i).loader = s.loader := rfl
@[simp] theorem State.setAtcNext_bootOverlay (i : Fin 22) : (s.setAtcNext i).bootOverlay = s.bootOverlay := rfl
@[simp] theorem State.setAtcNext_diagPc (i : Fin 22) : (s.setAtcNext i).diagPc = s.diagPc := rfl
@[simp] theorem State.setAtcNext_inbox (i : Fin 22) : (s.setAtcNext i).inbox = s.inbox := rfl
@[simp] theorem State.setAtcNext_draws (i : Fin 22) : (s.setAtcNext i).draws = s.draws := rfl
@[simp] theorem State.setAtcNext_reply (i : Fin 22) : (s.setAtcNext i).reply = s.reply := rfl

@[simp] theorem State.setSlots_regs (t : Runs BankRef) : (s.setSlots t).regs = s.regs := rfl
@[simp] theorem State.setSlots_atc (t : Runs BankRef) : (s.setSlots t).atc = s.atc := rfl
@[simp] theorem State.setSlots_atcNext (t : Runs BankRef) : (s.setSlots t).atcNext = s.atcNext := rfl
@[simp] theorem State.setSlots_slots (t : Runs BankRef) : (s.setSlots t).slots = t := rfl
@[simp] theorem State.setSlots_stores (t : Runs BankRef) : (s.setSlots t).stores = s.stores := rfl
@[simp] theorem State.setSlots_ioHistory (t : Runs BankRef) : (s.setSlots t).ioHistory = s.ioHistory := rfl
@[simp] theorem State.setSlots_diagLog (t : Runs BankRef) : (s.setSlots t).diagLog = s.diagLog := rfl
@[simp] theorem State.setSlots_refused (t : Runs BankRef) : (s.setSlots t).refused = s.refused := rfl
@[simp] theorem State.setSlots_params (t : Runs BankRef) : (s.setSlots t).params = s.params := rfl
@[simp] theorem State.setSlots_loader (t : Runs BankRef) : (s.setSlots t).loader = s.loader := rfl
@[simp] theorem State.setSlots_bootOverlay (t : Runs BankRef) : (s.setSlots t).bootOverlay = s.bootOverlay := rfl
@[simp] theorem State.setSlots_diagPc (t : Runs BankRef) : (s.setSlots t).diagPc = s.diagPc := rfl
@[simp] theorem State.setSlots_inbox (t : Runs BankRef) : (s.setSlots t).inbox = s.inbox := rfl
@[simp] theorem State.setSlots_draws (t : Runs BankRef) : (s.setSlots t).draws = s.draws := rfl
@[simp] theorem State.setSlots_reply (t : Runs BankRef) : (s.setSlots t).reply = s.reply := rfl

@[simp] theorem State.setStores_regs (m : Stores) : (s.setStores m).regs = s.regs := rfl
@[simp] theorem State.setStores_atc (m : Stores) : (s.setStores m).atc = s.atc := rfl
@[simp] theorem State.setStores_atcNext (m : Stores) : (s.setStores m).atcNext = s.atcNext := rfl
@[simp] theorem State.setStores_slots (m : Stores) : (s.setStores m).slots = s.slots := rfl
@[simp] theorem State.setStores_stores (m : Stores) : (s.setStores m).stores = m := rfl
@[simp] theorem State.setStores_ioHistory (m : Stores) : (s.setStores m).ioHistory = s.ioHistory := rfl
@[simp] theorem State.setStores_diagLog (m : Stores) : (s.setStores m).diagLog = s.diagLog := rfl
@[simp] theorem State.setStores_refused (m : Stores) : (s.setStores m).refused = s.refused := rfl
@[simp] theorem State.setStores_params (m : Stores) : (s.setStores m).params = s.params := rfl
@[simp] theorem State.setStores_loader (m : Stores) : (s.setStores m).loader = s.loader := rfl
@[simp] theorem State.setStores_bootOverlay (m : Stores) : (s.setStores m).bootOverlay = s.bootOverlay := rfl
@[simp] theorem State.setStores_diagPc (m : Stores) : (s.setStores m).diagPc = s.diagPc := rfl
@[simp] theorem State.setStores_inbox (m : Stores) : (s.setStores m).inbox = s.inbox := rfl
@[simp] theorem State.setStores_draws (m : Stores) : (s.setStores m).draws = s.draws := rfl
@[simp] theorem State.setStores_reply (m : Stores) : (s.setStores m).reply = s.reply := rfl

@[simp] theorem State.appendIo_regs (e : IoEvent) : (s.appendIo e).regs = s.regs := rfl
@[simp] theorem State.appendIo_atc (e : IoEvent) : (s.appendIo e).atc = s.atc := rfl
@[simp] theorem State.appendIo_atcNext (e : IoEvent) : (s.appendIo e).atcNext = s.atcNext := rfl
@[simp] theorem State.appendIo_slots (e : IoEvent) : (s.appendIo e).slots = s.slots := rfl
@[simp] theorem State.appendIo_stores (e : IoEvent) : (s.appendIo e).stores = s.stores := rfl
@[simp] theorem State.appendIo_ioHistory (e : IoEvent) : (s.appendIo e).ioHistory = s.ioHistory ++ [e] := rfl
@[simp] theorem State.appendIo_diagLog (e : IoEvent) : (s.appendIo e).diagLog = s.diagLog := rfl
@[simp] theorem State.appendIo_refused (e : IoEvent) : (s.appendIo e).refused = s.refused := rfl
@[simp] theorem State.appendIo_params (e : IoEvent) : (s.appendIo e).params = s.params := rfl
@[simp] theorem State.appendIo_loader (e : IoEvent) : (s.appendIo e).loader = s.loader := rfl
@[simp] theorem State.appendIo_bootOverlay (e : IoEvent) : (s.appendIo e).bootOverlay = s.bootOverlay := rfl
@[simp] theorem State.appendIo_diagPc (e : IoEvent) : (s.appendIo e).diagPc = s.diagPc := rfl
@[simp] theorem State.appendIo_inbox (e : IoEvent) : (s.appendIo e).inbox = s.inbox := rfl
@[simp] theorem State.appendIo_draws (e : IoEvent) : (s.appendIo e).draws = s.draws := rfl
@[simp] theorem State.appendIo_reply (e : IoEvent) : (s.appendIo e).reply = s.reply := rfl

@[simp] theorem State.log_regs (e : DiagEvent) : (s.log e).regs = s.regs := rfl
@[simp] theorem State.log_atc (e : DiagEvent) : (s.log e).atc = s.atc := rfl
@[simp] theorem State.log_atcNext (e : DiagEvent) : (s.log e).atcNext = s.atcNext := rfl
@[simp] theorem State.log_slots (e : DiagEvent) : (s.log e).slots = s.slots := rfl
@[simp] theorem State.log_stores (e : DiagEvent) : (s.log e).stores = s.stores := rfl
@[simp] theorem State.log_ioHistory (e : DiagEvent) : (s.log e).ioHistory = s.ioHistory := rfl
@[simp] theorem State.log_diagLog (e : DiagEvent) : (s.log e).diagLog = s.diagLog ++ [e] := rfl
@[simp] theorem State.log_refused (e : DiagEvent) : (s.log e).refused = s.refused := rfl
@[simp] theorem State.log_params (e : DiagEvent) : (s.log e).params = s.params := rfl
@[simp] theorem State.log_loader (e : DiagEvent) : (s.log e).loader = s.loader := rfl
@[simp] theorem State.log_bootOverlay (e : DiagEvent) : (s.log e).bootOverlay = s.bootOverlay := rfl
@[simp] theorem State.log_diagPc (e : DiagEvent) : (s.log e).diagPc = s.diagPc := rfl
@[simp] theorem State.log_inbox (e : DiagEvent) : (s.log e).inbox = s.inbox := rfl
@[simp] theorem State.log_draws (e : DiagEvent) : (s.log e).draws = s.draws := rfl
@[simp] theorem State.log_reply (e : DiagEvent) : (s.log e).reply = s.reply := rfl

@[simp] theorem State.markRefused_regs : (s.markRefused).regs = s.regs := rfl
@[simp] theorem State.markRefused_atc : (s.markRefused).atc = s.atc := rfl
@[simp] theorem State.markRefused_atcNext : (s.markRefused).atcNext = s.atcNext := rfl
@[simp] theorem State.markRefused_slots : (s.markRefused).slots = s.slots := rfl
@[simp] theorem State.markRefused_stores : (s.markRefused).stores = s.stores := rfl
@[simp] theorem State.markRefused_ioHistory : (s.markRefused).ioHistory = s.ioHistory := rfl
@[simp] theorem State.markRefused_diagLog : (s.markRefused).diagLog = s.diagLog := rfl
@[simp] theorem State.markRefused_refused : (s.markRefused).refused = true := rfl
@[simp] theorem State.markRefused_params : (s.markRefused).params = s.params := rfl
@[simp] theorem State.markRefused_loader : (s.markRefused).loader = s.loader := rfl
@[simp] theorem State.markRefused_bootOverlay : (s.markRefused).bootOverlay = s.bootOverlay := rfl
@[simp] theorem State.markRefused_diagPc : (s.markRefused).diagPc = s.diagPc := rfl
@[simp] theorem State.markRefused_inbox : (s.markRefused).inbox = s.inbox := rfl
@[simp] theorem State.markRefused_draws : (s.markRefused).draws = s.draws := rfl
@[simp] theorem State.markRefused_reply : (s.markRefused).reply = s.reply := rfl

@[simp] theorem State.clearHistory_regs : (s.clearHistory).regs = s.regs := rfl
@[simp] theorem State.clearHistory_atc : (s.clearHistory).atc = s.atc := rfl
@[simp] theorem State.clearHistory_atcNext : (s.clearHistory).atcNext = s.atcNext := rfl
@[simp] theorem State.clearHistory_slots : (s.clearHistory).slots = s.slots := rfl
@[simp] theorem State.clearHistory_stores : (s.clearHistory).stores = s.stores := rfl
@[simp] theorem State.clearHistory_ioHistory : (s.clearHistory).ioHistory = [] := rfl
@[simp] theorem State.clearHistory_diagLog : (s.clearHistory).diagLog = [] := rfl
@[simp] theorem State.clearHistory_refused : (s.clearHistory).refused = false := rfl
@[simp] theorem State.clearHistory_params : (s.clearHistory).params = s.params := rfl
@[simp] theorem State.clearHistory_loader : (s.clearHistory).loader = s.loader := rfl
@[simp] theorem State.clearHistory_bootOverlay : (s.clearHistory).bootOverlay = s.bootOverlay := rfl
@[simp] theorem State.clearHistory_diagPc : (s.clearHistory).diagPc = s.diagPc := rfl
@[simp] theorem State.clearHistory_inbox : (s.clearHistory).inbox = s.inbox := rfl
@[simp] theorem State.clearHistory_draws : (s.clearHistory).draws = s.draws := rfl
@[simp] theorem State.clearHistory_reply : (s.clearHistory).reply = s.reply := rfl

@[simp] theorem State.setParams_regs (p : Params) : (s.setParams p).regs = s.regs := rfl
@[simp] theorem State.setParams_atc (p : Params) : (s.setParams p).atc = s.atc := rfl
@[simp] theorem State.setParams_atcNext (p : Params) : (s.setParams p).atcNext = s.atcNext := rfl
@[simp] theorem State.setParams_slots (p : Params) : (s.setParams p).slots = s.slots := rfl
@[simp] theorem State.setParams_stores (p : Params) : (s.setParams p).stores = s.stores := rfl
@[simp] theorem State.setParams_ioHistory (p : Params) : (s.setParams p).ioHistory = s.ioHistory := rfl
@[simp] theorem State.setParams_diagLog (p : Params) : (s.setParams p).diagLog = s.diagLog := rfl
@[simp] theorem State.setParams_refused (p : Params) : (s.setParams p).refused = s.refused := rfl
@[simp] theorem State.setParams_params (p : Params) : (s.setParams p).params = p := rfl
@[simp] theorem State.setParams_loader (p : Params) : (s.setParams p).loader = s.loader := rfl
@[simp] theorem State.setParams_bootOverlay (p : Params) : (s.setParams p).bootOverlay = s.bootOverlay := rfl
@[simp] theorem State.setParams_diagPc (p : Params) : (s.setParams p).diagPc = s.diagPc := rfl
@[simp] theorem State.setParams_inbox (p : Params) : (s.setParams p).inbox = s.inbox := rfl
@[simp] theorem State.setParams_draws (p : Params) : (s.setParams p).draws = s.draws := rfl
@[simp] theorem State.setParams_reply (p : Params) : (s.setParams p).reply = s.reply := rfl

@[simp] theorem State.setLoader_regs (p : Params) : (s.setLoader p).regs = s.regs := rfl
@[simp] theorem State.setLoader_atc (p : Params) : (s.setLoader p).atc = s.atc := rfl
@[simp] theorem State.setLoader_atcNext (p : Params) : (s.setLoader p).atcNext = s.atcNext := rfl
@[simp] theorem State.setLoader_slots (p : Params) : (s.setLoader p).slots = s.slots := rfl
@[simp] theorem State.setLoader_stores (p : Params) : (s.setLoader p).stores = s.stores := rfl
@[simp] theorem State.setLoader_ioHistory (p : Params) : (s.setLoader p).ioHistory = s.ioHistory := rfl
@[simp] theorem State.setLoader_diagLog (p : Params) : (s.setLoader p).diagLog = s.diagLog := rfl
@[simp] theorem State.setLoader_refused (p : Params) : (s.setLoader p).refused = s.refused := rfl
@[simp] theorem State.setLoader_params (p : Params) : (s.setLoader p).params = s.params := rfl
@[simp] theorem State.setLoader_loader (p : Params) : (s.setLoader p).loader = p := rfl
@[simp] theorem State.setLoader_bootOverlay (p : Params) : (s.setLoader p).bootOverlay = s.bootOverlay := rfl
@[simp] theorem State.setLoader_diagPc (p : Params) : (s.setLoader p).diagPc = s.diagPc := rfl
@[simp] theorem State.setLoader_inbox (p : Params) : (s.setLoader p).inbox = s.inbox := rfl
@[simp] theorem State.setLoader_draws (p : Params) : (s.setLoader p).draws = s.draws := rfl
@[simp] theorem State.setLoader_reply (p : Params) : (s.setLoader p).reply = s.reply := rfl

@[simp] theorem State.setBootOverlay_regs (on : Bool) : (s.setBootOverlay on).regs = s.regs := rfl
@[simp] theorem State.setBootOverlay_atc (on : Bool) : (s.setBootOverlay on).atc = s.atc := rfl
@[simp] theorem State.setBootOverlay_atcNext (on : Bool) : (s.setBootOverlay on).atcNext = s.atcNext := rfl
@[simp] theorem State.setBootOverlay_slots (on : Bool) : (s.setBootOverlay on).slots = s.slots := rfl
@[simp] theorem State.setBootOverlay_stores (on : Bool) : (s.setBootOverlay on).stores = s.stores := rfl
@[simp] theorem State.setBootOverlay_ioHistory (on : Bool) : (s.setBootOverlay on).ioHistory = s.ioHistory := rfl
@[simp] theorem State.setBootOverlay_diagLog (on : Bool) : (s.setBootOverlay on).diagLog = s.diagLog := rfl
@[simp] theorem State.setBootOverlay_refused (on : Bool) : (s.setBootOverlay on).refused = s.refused := rfl
@[simp] theorem State.setBootOverlay_params (on : Bool) : (s.setBootOverlay on).params = s.params := rfl
@[simp] theorem State.setBootOverlay_loader (on : Bool) : (s.setBootOverlay on).loader = s.loader := rfl
@[simp] theorem State.setBootOverlay_bootOverlay (on : Bool) : (s.setBootOverlay on).bootOverlay = on := rfl
@[simp] theorem State.setBootOverlay_diagPc (on : Bool) : (s.setBootOverlay on).diagPc = s.diagPc := rfl
@[simp] theorem State.setBootOverlay_inbox (on : Bool) : (s.setBootOverlay on).inbox = s.inbox := rfl
@[simp] theorem State.setBootOverlay_draws (on : Bool) : (s.setBootOverlay on).draws = s.draws := rfl
@[simp] theorem State.setBootOverlay_reply (on : Bool) : (s.setBootOverlay on).reply = s.reply := rfl

@[simp] theorem State.setDiagPc_regs (pc : Word) : (s.setDiagPc pc).regs = s.regs := rfl
@[simp] theorem State.setDiagPc_atc (pc : Word) : (s.setDiagPc pc).atc = s.atc := rfl
@[simp] theorem State.setDiagPc_atcNext (pc : Word) : (s.setDiagPc pc).atcNext = s.atcNext := rfl
@[simp] theorem State.setDiagPc_slots (pc : Word) : (s.setDiagPc pc).slots = s.slots := rfl
@[simp] theorem State.setDiagPc_stores (pc : Word) : (s.setDiagPc pc).stores = s.stores := rfl
@[simp] theorem State.setDiagPc_ioHistory (pc : Word) : (s.setDiagPc pc).ioHistory = s.ioHistory := rfl
@[simp] theorem State.setDiagPc_diagLog (pc : Word) : (s.setDiagPc pc).diagLog = s.diagLog := rfl
@[simp] theorem State.setDiagPc_refused (pc : Word) : (s.setDiagPc pc).refused = s.refused := rfl
@[simp] theorem State.setDiagPc_params (pc : Word) : (s.setDiagPc pc).params = s.params := rfl
@[simp] theorem State.setDiagPc_loader (pc : Word) : (s.setDiagPc pc).loader = s.loader := rfl
@[simp] theorem State.setDiagPc_bootOverlay (pc : Word) : (s.setDiagPc pc).bootOverlay = s.bootOverlay := rfl
@[simp] theorem State.setDiagPc_diagPc (pc : Word) : (s.setDiagPc pc).diagPc = pc := rfl
@[simp] theorem State.setDiagPc_inbox (pc : Word) : (s.setDiagPc pc).inbox = s.inbox := rfl
@[simp] theorem State.setDiagPc_draws (pc : Word) : (s.setDiagPc pc).draws = s.draws := rfl
@[simp] theorem State.setDiagPc_reply (pc : Word) : (s.setDiagPc pc).reply = s.reply := rfl

@[simp] theorem State.setInbox_regs (l : List HostEvent) : (s.setInbox l).regs = s.regs := rfl
@[simp] theorem State.setInbox_atc (l : List HostEvent) : (s.setInbox l).atc = s.atc := rfl
@[simp] theorem State.setInbox_atcNext (l : List HostEvent) : (s.setInbox l).atcNext = s.atcNext := rfl
@[simp] theorem State.setInbox_slots (l : List HostEvent) : (s.setInbox l).slots = s.slots := rfl
@[simp] theorem State.setInbox_stores (l : List HostEvent) : (s.setInbox l).stores = s.stores := rfl
@[simp] theorem State.setInbox_ioHistory (l : List HostEvent) : (s.setInbox l).ioHistory = s.ioHistory := rfl
@[simp] theorem State.setInbox_diagLog (l : List HostEvent) : (s.setInbox l).diagLog = s.diagLog := rfl
@[simp] theorem State.setInbox_refused (l : List HostEvent) : (s.setInbox l).refused = s.refused := rfl
@[simp] theorem State.setInbox_params (l : List HostEvent) : (s.setInbox l).params = s.params := rfl
@[simp] theorem State.setInbox_loader (l : List HostEvent) : (s.setInbox l).loader = s.loader := rfl
@[simp] theorem State.setInbox_bootOverlay (l : List HostEvent) : (s.setInbox l).bootOverlay = s.bootOverlay := rfl
@[simp] theorem State.setInbox_diagPc (l : List HostEvent) : (s.setInbox l).diagPc = s.diagPc := rfl
@[simp] theorem State.setInbox_inbox (l : List HostEvent) : (s.setInbox l).inbox = l := rfl
@[simp] theorem State.setInbox_draws (l : List HostEvent) : (s.setInbox l).draws = s.draws := rfl
@[simp] theorem State.setInbox_reply (l : List HostEvent) : (s.setInbox l).reply = s.reply := rfl

@[simp] theorem State.takeDraws_regs (n : Nat) : (s.takeDraws n).regs = s.regs := rfl
@[simp] theorem State.takeDraws_atc (n : Nat) : (s.takeDraws n).atc = s.atc := rfl
@[simp] theorem State.takeDraws_atcNext (n : Nat) : (s.takeDraws n).atcNext = s.atcNext := rfl
@[simp] theorem State.takeDraws_slots (n : Nat) : (s.takeDraws n).slots = s.slots := rfl
@[simp] theorem State.takeDraws_stores (n : Nat) : (s.takeDraws n).stores = s.stores := rfl
@[simp] theorem State.takeDraws_ioHistory (n : Nat) : (s.takeDraws n).ioHistory = s.ioHistory := rfl
@[simp] theorem State.takeDraws_diagLog (n : Nat) : (s.takeDraws n).diagLog = s.diagLog := rfl
@[simp] theorem State.takeDraws_refused (n : Nat) : (s.takeDraws n).refused = s.refused := rfl
@[simp] theorem State.takeDraws_params (n : Nat) : (s.takeDraws n).params = s.params := rfl
@[simp] theorem State.takeDraws_loader (n : Nat) : (s.takeDraws n).loader = s.loader := rfl
@[simp] theorem State.takeDraws_bootOverlay (n : Nat) : (s.takeDraws n).bootOverlay = s.bootOverlay := rfl
@[simp] theorem State.takeDraws_diagPc (n : Nat) : (s.takeDraws n).diagPc = s.diagPc := rfl
@[simp] theorem State.takeDraws_inbox (n : Nat) : (s.takeDraws n).inbox = s.inbox := rfl
@[simp] theorem State.takeDraws_draws (n : Nat) : (s.takeDraws n).draws = s.draws + n := rfl
@[simp] theorem State.takeDraws_reply (n : Nat) : (s.takeDraws n).reply = s.reply := rfl

@[simp] theorem State.setReply_regs (r : Reply) : (s.setReply r).regs = s.regs := rfl
@[simp] theorem State.setReply_atc (r : Reply) : (s.setReply r).atc = s.atc := rfl
@[simp] theorem State.setReply_atcNext (r : Reply) : (s.setReply r).atcNext = s.atcNext := rfl
@[simp] theorem State.setReply_slots (r : Reply) : (s.setReply r).slots = s.slots := rfl
@[simp] theorem State.setReply_stores (r : Reply) : (s.setReply r).stores = s.stores := rfl
@[simp] theorem State.setReply_ioHistory (r : Reply) : (s.setReply r).ioHistory = s.ioHistory := rfl
@[simp] theorem State.setReply_diagLog (r : Reply) : (s.setReply r).diagLog = s.diagLog := rfl
@[simp] theorem State.setReply_refused (r : Reply) : (s.setReply r).refused = s.refused := rfl
@[simp] theorem State.setReply_params (r : Reply) : (s.setReply r).params = s.params := rfl
@[simp] theorem State.setReply_loader (r : Reply) : (s.setReply r).loader = s.loader := rfl
@[simp] theorem State.setReply_bootOverlay (r : Reply) : (s.setReply r).bootOverlay = s.bootOverlay := rfl
@[simp] theorem State.setReply_diagPc (r : Reply) : (s.setReply r).diagPc = s.diagPc := rfl
@[simp] theorem State.setReply_inbox (r : Reply) : (s.setReply r).inbox = s.inbox := rfl
@[simp] theorem State.setReply_draws (r : Reply) : (s.setReply r).draws = s.draws := rfl
@[simp] theorem State.setReply_reply (r : Reply) : (s.setReply r).reply = r := rfl

end

end Sys2Proof.Machine
end

