-- ==== Sys2Proof/Laws/Ops.lean ====
section
/-! SUPPORT. What sequencing and the end of an operation can do. -/

namespace Sys2Proof.Machine

variable {α β : Type}

@[simp] theorem andThen_ok (a : α) (s : State) (f : α → State → Ans β × State) : andThen (.ok a, s) f = f a s := rfl
@[simp] theorem andThen_fault (e : FaultRecord) (s : State) (f : α → State → Ans β × State) :
    andThen (.fault e, s) f = (.fault e, s) := rfl
@[simp] theorem andThen_refuse (r : RefuseReason) (s : State) (f : α → State → Ans β × State) :
    andThen (.refuse r, s) f = (.refuse r, s) := rfl

@[simp] theorem mapAns_ok (f : α → β) (a : α) (s : State) : mapAns f (.ok a, s) = (.ok (f a), s) := rfl
@[simp] theorem mapAns_fault (f : α → β) (e : FaultRecord) (s : State) : mapAns f (.fault e, s) = (.fault e, s) := rfl
@[simp] theorem mapAns_refuse (f : α → β) (r : RefuseReason) (s : State) :
    mapAns f (.refuse r, s) = (.refuse r, s) := rfl

@[simp] theorem mapFault_ok (f : FaultRecord → FaultRecord) (a : α) (s : State) :
    mapFault f (.ok a, s) = (.ok a, s) := rfl
@[simp] theorem mapFault_fault (f : FaultRecord → FaultRecord) (e : FaultRecord) (s : State) :
    mapFault f ((.fault e, s) : Ans α × State) = (.fault (f e), s) := rfl
@[simp] theorem mapFault_refuse (f : FaultRecord → FaultRecord) (r : RefuseReason) (s : State) :
    mapFault f ((.refuse r, s) : Ans α × State) = (.refuse r, s) := rfl

@[simp] theorem mapAns_snd (f : α → β) (x : Ans α × State) : (mapAns f x).2 = x.2 := by
  obtain ⟨_ | _ | _, s⟩ := x <;> rfl

@[simp] theorem mapFault_snd (f : FaultRecord → FaultRecord) (x : Ans α × State) : (mapFault f x).2 = x.2 := by
  obtain ⟨_ | _ | _, s⟩ := x <;> rfl

/-- A sequence ends well exactly where both parts do. -/
theorem andThen_eq_ok {x : Ans α × State} {f : α → State → Ans β × State} {b : β} {t : State} :
    andThen x f = (.ok b, t) ↔ ∃ a s, x = (.ok a, s) ∧ f a s = (.ok b, t) := by
  obtain ⟨_ | _ | _, s⟩ := x <;> simp

/-- A sequence faults exactly where one of its parts does. -/
theorem andThen_eq_fault {x : Ans α × State} {f : α → State → Ans β × State} {e : FaultRecord} {t : State} :
    andThen x f = (.fault e, t) ↔ x = (.fault e, t) ∨ ∃ a s, x = (.ok a, s) ∧ f a s = (.fault e, t) := by
  obtain ⟨_ | _ | _, s⟩ := x <;> simp

/-- A sequence is refused exactly where one of its parts is. -/
theorem andThen_eq_refuse {x : Ans α × State} {f : α → State → Ans β × State} {r : RefuseReason} {t : State} :
    andThen x f = (.refuse r, t) ↔ x = (.refuse r, t) ∨ ∃ a s, x = (.ok a, s) ∧ f a s = (.refuse r, t) := by
  obtain ⟨_ | _ | _, s⟩ := x <;> simp

/-- A relation that both parts keep is kept by the sequence. -/
theorem andThen_keeps {R : State → State → Prop} (htrans : ∀ a b c, R a b → R b c → R a c) {s : State}
    {x : Ans α × State} {f : α → State → Ans β × State} (hx : R s x.2)
    (hf : ∀ a, x.1 = .ok a → R x.2 (f a x.2).2) : R s (andThen x f).2 := by
  obtain ⟨_ | _ | _, t⟩ := x
  · exact htrans _ _ _ hx (hf _ rfl)
  · exact hx
  · exact hx

/-- The end of an operation, by its answer (R13, R49, R452). -/
@[simp] theorem deliver_ok (c : FaultRecord → Option Word) (r : Result) (s : State) :
    deliver c (.ok r, s) = .next (s.setReply (.ok r)) := rfl
@[simp] theorem deliver_fault (c : FaultRecord → Option Word) (f : FaultRecord) (s : State) :
    deliver c (.fault f, s) = .next ((s.log (.faultReported f)).setReply (.fault f (c f))) := rfl
@[simp] theorem deliver_refuse (c : FaultRecord → Option Word) (r : RefuseReason) (s : State) :
    deliver c (.refuse r, s) = .next (s.markRefused.setReply (.refuse r)) := rfl
@[simp] theorem deliverOk_eq (r : Result) (s : State) : deliverOk r s = .next (s.setReply (.ok r)) := rfl

/-- Every operation that ends answers a next state, in one of three ways. -/
theorem deliver_cases (c : FaultRecord → Option Word) (x : Ans Result × State) :
    (∃ r, x.1 = .ok r ∧ deliver c x = .next (x.2.setReply (.ok r))) ∨
    (∃ f, x.1 = .fault f ∧ deliver c x = .next ((x.2.log (.faultReported f)).setReply (.fault f (c f)))) ∨
    (∃ r, x.1 = .refuse r ∧ deliver c x = .next (x.2.markRefused.setReply (.refuse r))) := by
  obtain ⟨_ | _ | _, s⟩ := x <;> simp

/-- A reply does not hide what the operation did before it. -/
theorem deliver_next {c : FaultRecord → Option Word} {x : Ans Result × State} {t : State}
    (h : deliver c x = .next t) :
    t.regs = x.2.regs ∧ t.atc = x.2.atc ∧ t.atcNext = x.2.atcNext ∧ t.slots = x.2.slots ∧ t.stores = x.2.stores
      ∧ t.ioHistory = x.2.ioHistory ∧ t.params = x.2.params ∧ t.loader = x.2.loader
      ∧ t.bootOverlay = x.2.bootOverlay ∧ t.diagPc = x.2.diagPc ∧ t.inbox = x.2.inbox ∧ t.draws = x.2.draws := by
  obtain ⟨_ | _ | _, s⟩ := x <;> simp only [deliver, Host.Outcome.next.injEq] at h <;> subst h <;> simp

end Sys2Proof.Machine
end

