-- ==== Sys2Proof/Laws/Atc.lean ====
section
/-! SUPPORT. What the ATC operations do. -/

namespace Sys2Proof.Machine

/-- What choosing a victim can do (R373): nothing, move `atc_next` on, or take a draw. -/
theorem atcVictim_state (s : State) :
    (atcVictim s).2 = s ∨ (atcVictim s).2 = s.setAtcNext (s.atcNext + 1) ∨ (atcVictim s).2 = s.takeDraws 1 := by
  unfold atcVictim
  split
  · exact .inl rfl
  · split
    · exact .inr (.inr rfl)
    · exact .inr (.inl rfl)

/-- A victim is one of the 22 entries, if there are 22 (R373). -/
theorem atcVictim_lt {s : State} (h : s.atc.length = atcEntries) : (atcVictim s).1 < s.atc.length := by
  unfold atcVictim
  split
  · rename_i i hi
    exact (List.findIdx?_eq_some_iff_findIdx_eq.1 hi).1
  · split
    · rw [h]; exact (Config.drawVictim _).isLt
    · rw [h]; exact s.atcNext.isLt

/-- What an insertion can do (R372): nothing, or write one entry after choosing a victim. -/
theorem atcInsert_state (la : Word) (fc : BitVec 3) (pa : Word) (ci wp m : Bool) (s : State) :
    (s.params.atcMode = .alwaysMiss ∧ atcInsert la fc pa ci wp m s = s) ∨
    (s.params.atcMode = .normal ∧ atcInsert la fc pa ci wp m s =
      (atcVictim s).2.setAtc ((atcVictim s).2.atc.set (atcVictim s).1
        (newEntry s.regs.tc.pageMask la fc pa ci wp m))) := by
  unfold atcInsert
  cases h : s.params.atcMode <;> simp

section
variable (la : Word) (fc : BitVec 3) (pa : Word) (ci wp m : Bool) (s : State)

/-- An insertion touches the ATC, `atc_next` and the draw counter alone. -/
theorem atcInsert_frame :
    (atcInsert la fc pa ci wp m s).regs = s.regs ∧ (atcInsert la fc pa ci wp m s).slots = s.slots
      ∧ (atcInsert la fc pa ci wp m s).stores = s.stores
      ∧ (atcInsert la fc pa ci wp m s).ioHistory = s.ioHistory
      ∧ (atcInsert la fc pa ci wp m s).diagLog = s.diagLog
      ∧ (atcInsert la fc pa ci wp m s).refused = s.refused ∧ (atcInsert la fc pa ci wp m s).params = s.params
      ∧ (atcInsert la fc pa ci wp m s).loader = s.loader
      ∧ (atcInsert la fc pa ci wp m s).bootOverlay = s.bootOverlay
      ∧ (atcInsert la fc pa ci wp m s).diagPc = s.diagPc ∧ (atcInsert la fc pa ci wp m s).inbox = s.inbox
      ∧ (atcInsert la fc pa ci wp m s).reply = s.reply := by
  rcases atcInsert_state la fc pa ci wp m s with ⟨-, h⟩ | ⟨-, h⟩ <;> rw [h]
  · simp
  · rcases atcVictim_state s with h | h | h <;> rw [h] <;> simp

@[simp] theorem atcInsert_regs : (atcInsert la fc pa ci wp m s).regs = s.regs := (atcInsert_frame ..).1
@[simp] theorem atcInsert_slots : (atcInsert la fc pa ci wp m s).slots = s.slots := (atcInsert_frame ..).2.1
@[simp] theorem atcInsert_stores : (atcInsert la fc pa ci wp m s).stores = s.stores := (atcInsert_frame ..).2.2.1
@[simp] theorem atcInsert_ioHistory : (atcInsert la fc pa ci wp m s).ioHistory = s.ioHistory :=
  (atcInsert_frame ..).2.2.2.1
@[simp] theorem atcInsert_diagLog : (atcInsert la fc pa ci wp m s).diagLog = s.diagLog :=
  (atcInsert_frame ..).2.2.2.2.1
@[simp] theorem atcInsert_refused : (atcInsert la fc pa ci wp m s).refused = s.refused :=
  (atcInsert_frame ..).2.2.2.2.2.1
@[simp] theorem atcInsert_params : (atcInsert la fc pa ci wp m s).params = s.params :=
  (atcInsert_frame ..).2.2.2.2.2.2.1
@[simp] theorem atcInsert_loader : (atcInsert la fc pa ci wp m s).loader = s.loader :=
  (atcInsert_frame ..).2.2.2.2.2.2.2.1
@[simp] theorem atcInsert_bootOverlay : (atcInsert la fc pa ci wp m s).bootOverlay = s.bootOverlay :=
  (atcInsert_frame ..).2.2.2.2.2.2.2.2.1
@[simp] theorem atcInsert_diagPc : (atcInsert la fc pa ci wp m s).diagPc = s.diagPc :=
  (atcInsert_frame ..).2.2.2.2.2.2.2.2.2.1
@[simp] theorem atcInsert_inbox : (atcInsert la fc pa ci wp m s).inbox = s.inbox :=
  (atcInsert_frame ..).2.2.2.2.2.2.2.2.2.2.1
@[simp] theorem atcInsert_reply : (atcInsert la fc pa ci wp m s).reply = s.reply :=
  (atcInsert_frame ..).2.2.2.2.2.2.2.2.2.2.2

/-- An insertion keeps the number of entries. -/
@[simp] theorem atcInsert_length : (atcInsert la fc pa ci wp m s).atc.length = s.atc.length := by
  rcases atcInsert_state la fc pa ci wp m s with ⟨-, h⟩ | ⟨-, h⟩ <;> rw [h]
  rcases atcVictim_state s with h | h | h <;> rw [h] <;> simp

/-- Every entry after an insertion is an old one or the new one. -/
theorem atcInsert_mem {e : AtcEntry} (h : e ∈ (atcInsert la fc pa ci wp m s).atc) :
    e ∈ s.atc ∨ e = newEntry s.regs.tc.pageMask la fc pa ci wp m := by
  rcases atcInsert_state la fc pa ci wp m s with ⟨-, g⟩ | ⟨-, g⟩ <;> rw [g] at h
  · exact .inl h
  · have hv : (atcVictim s).2.atc = s.atc := by
      rcases atcVictim_state s with h | h | h <;> rw [h] <;> simp
    rw [State.setAtc_atc, hv] at h
    exact (List.mem_or_eq_of_mem_set h)

end

@[simp] theorem atcFlush_regs (pick : AtcEntry → Bool) (s : State) : (atcFlush pick s).regs = s.regs := rfl
@[simp] theorem atcFlush_atc (pick : AtcEntry → Bool) (s : State) :
    (atcFlush pick s).atc = s.atc.map fun e => if pick e then { e with valid := false } else e := rfl

/-- No lookup hits a page and function code right after a flush of it (R98). -/
theorem atcFind_flush_none {pick : AtcEntry → Bool} {la : Word} {acc : Access} {s : State}
    (h : ∀ e, entryCovers s.regs.tc.pageMask (functionCode acc) la e = true → pick e = true) :
    atcFind la acc (atcFlush pick s) = none := by
  have hp : (atcFlush pick s).params = s.params := rfl
  unfold atcFind
  rw [hp]
  cases s.params.atcMode
  · simp only [atcFlush_regs, atcFlush_atc, List.findIdx?_eq_none_iff, List.mem_map]
    rintro _ ⟨e, -, rfl⟩
    cases hpk : pick e
    · simp only [Bool.false_eq_true, if_false]
      cases he : entryCovers s.regs.tc.pageMask (functionCode acc) la e
      · rfl
      · rw [h e he] at hpk; simp at hpk
    · simp [entryCovers]
  · rfl

end Sys2Proof.Machine
end

