-- ==== Sys2Proof/Laws/Memory.lean ====
section
/-! SUPPORT. The laws of a backing store: read after write, and every operation keeps the canonical form. -/

namespace Sys2Proof.Machine

/-- Offsets below `lo` are not listed in a canonical list that starts at `lo`. -/
theorem cellsGet_below {seed : Option Nat} {lo : Nat} {cells : List Host.Cell} {off : Nat} {d : Byte}
    (h : cellsWf seed lo cells = true) (ho : off < lo) : cellsGet cells off d = d := by
  induction cells generalizing lo with
  | nil => rfl
  | cons c r ih =>
    obtain ⟨k, b⟩ := c
    simp only [cellsWf, Bool.and_eq_true, decide_eq_true_eq] at h
    have hne : off ≠ k := by omega
    simp only [cellsGet, hne, if_false]
    exact ih h.2 (by omega)

/-- Reading the byte just set. -/
theorem cellsGet_set_same {seed : Option Nat} {lo : Nat} {cells : List Host.Cell} {off : Nat} {v d : Byte}
    (h : cellsWf seed lo cells = true) : cellsGet (cellsSet cells off v d) off d = v := by
  induction cells generalizing lo with
  | nil => by_cases hv : v = d <;> simp [cellsSet, cellsGet, hv]
  | cons c r ih =>
    obtain ⟨k, b⟩ := c
    simp only [cellsWf, Bool.and_eq_true, decide_eq_true_eq] at h
    rcases Nat.lt_trichotomy off k with hlt | heq | hgt
    · have hne : off ≠ k := by omega
      by_cases hv : v = d
      · simp only [cellsSet, hlt, if_true, hv, cellsGet, hne, if_false]
        exact cellsGet_below h.2 (by omega)
      · simp [cellsSet, hlt, hv, cellsGet]
    · subst heq
      by_cases hv : v = d
      · simp only [cellsSet, Nat.lt_irrefl, if_false, if_true, hv]
        exact cellsGet_below h.2 (by omega)
      · simp [cellsSet, hv, cellsGet]
    · have hne : off ≠ k := by omega
      have hnl : ¬ off < k := by omega
      simp only [cellsSet, hnl, if_false, hne, cellsGet]
      exact ih h.2

/-- Setting a byte leaves every other offset alone. -/
theorem cellsGet_set_other {cells : List Host.Cell} {off j : Nat} {v d d' : Byte} (hj : j ≠ off) :
    cellsGet (cellsSet cells off v d) j d' = cellsGet cells j d' := by
  induction cells with
  | nil => by_cases hv : v = d <;> simp [cellsSet, cellsGet, hv, hj]
  | cons c r ih =>
    obtain ⟨k, b⟩ := c
    simp only [cellsSet]
    split
    · split <;> simp [cellsGet, hj]
    · split
      · rename_i heq
        subst heq
        split <;> simp [cellsGet, hj]
      · simp only [cellsGet, ih]

/-- The canonical form may start lower. -/
theorem cellsWf_weaken {seed : Option Nat} {lo lo' : Nat} {cells : List Host.Cell}
    (h : cellsWf seed lo cells = true) (hl : lo' ≤ lo) : cellsWf seed lo' cells = true := by
  cases cells with
  | nil => rfl
  | cons c r =>
    obtain ⟨k, b⟩ := c
    simp only [cellsWf, Bool.and_eq_true, decide_eq_true_eq] at h ⊢
    exact ⟨⟨by omega, h.1.2⟩, h.2⟩

/-- Setting a byte keeps the canonical form. -/
theorem cellsSet_wf {seed : Option Nat} {lo : Nat} {cells : List Host.Cell} {off : Nat} {v : Byte}
    (h : cellsWf seed lo cells = true) (hl : lo ≤ off) :
    cellsWf seed lo (cellsSet cells off v (blankByte seed off)) = true := by
  induction cells generalizing lo with
  | nil =>
    by_cases hv : v = blankByte seed off
    · simp [cellsSet, hv, cellsWf]
    · simp [cellsSet, hv, cellsWf, hl]
  | cons c r ih =>
    obtain ⟨k, b⟩ := c
    have h' := h
    simp only [cellsWf, Bool.and_eq_true, decide_eq_true_eq] at h
    obtain ⟨⟨hk, hb⟩, hr⟩ := h
    simp only [cellsSet]
    split
    · rename_i hlt
      split
      · exact h'
      · rename_i hv
        simp only [cellsWf, Bool.and_eq_true, decide_eq_true_eq]
        exact ⟨⟨hl, hv⟩, ⟨by omega, hb⟩, hr⟩
    · split
      · rename_i heq
        subst heq
        split
        · exact cellsWf_weaken hr (by omega)
        · rename_i hv
          simp only [cellsWf, Bool.and_eq_true, decide_eq_true_eq]
          exact ⟨⟨hl, hv⟩, hr⟩
      · rename_i hne
        simp only [cellsWf, Bool.and_eq_true, decide_eq_true_eq]
        exact ⟨⟨hk, hb⟩, ih hr (by omega)⟩

@[simp] theorem writeByte_seed (m : Memory) (off : Nat) (v : Byte) : (writeByte m off v).seed = m.seed := rfl

/-- Read after write of one byte. -/
theorem readByte_writeByte_same {m : Memory} {off : Nat} {v : Byte} (h : m.wf = true) :
    readByte (writeByte m off v) off = v := cellsGet_set_same h

/-- A byte written leaves every other byte alone. -/
theorem readByte_writeByte_other {m : Memory} {off j : Nat} {v : Byte} (hj : j ≠ off) :
    readByte (writeByte m off v) j = readByte m j := cellsGet_set_other hj

/-- Writing a byte keeps the canonical form. -/
theorem writeByte_wf {m : Memory} {off : Nat} {v : Byte} (h : m.wf = true) : (writeByte m off v).wf = true :=
  cellsSet_wf h (Nat.zero_le _)

@[simp] theorem writeBytes_seed (m : Memory) (off : Nat) (bs : List Byte) : (writeBytes m off bs).seed = m.seed := by
  induction bs generalizing m off with
  | nil => rfl
  | cons b bs ih => simp [writeBytes, ih]

/-- Writing bytes keeps the canonical form. -/
theorem writeBytes_wf {m : Memory} {off : Nat} {bs : List Byte} (h : m.wf = true) :
    (writeBytes m off bs).wf = true := by
  induction bs generalizing m off with
  | nil => exact h
  | cons b bs ih => exact ih (writeByte_wf h)

/-- Bytes written leave every byte outside them alone. -/
theorem readByte_writeBytes_outside {m : Memory} {off : Nat} {bs : List Byte} {j : Nat}
    (hj : j < off ∨ off + bs.length ≤ j) : readByte (writeBytes m off bs) j = readByte m j := by
  induction bs generalizing m off with
  | nil => rfl
  | cons b bs ih =>
    simp only [List.length_cons] at hj
    rw [writeBytes, ih (by omega), readByte_writeByte_other (by omega)]

/-- Bytes written read back. -/
theorem readByte_writeBytes_inside {m : Memory} {off : Nat} {bs : List Byte} (h : m.wf = true) {i : Nat}
    (hi : i < bs.length) : readByte (writeBytes m off bs) (off + i) = bs[i] := by
  induction bs generalizing m off i with
  | nil => simp at hi
  | cons b bs ih =>
    rw [writeBytes]
    cases i with
    | zero =>
      rw [readByte_writeBytes_outside (by omega)]
      simpa using readByte_writeByte_same h
    | succ i =>
      have := ih (m := writeByte m off b) (off := off + 1) (writeByte_wf h) (i := i) (by simpa using hi)
      simpa [Nat.add_assoc, Nat.add_comm 1 i] using this

/-- An image is stored in the canonical form. -/
theorem imageMemory_wf (size : Nat) (img : Image) : (imageMemory size img).wf = true := by
  have key : ∀ (l : Image) (m : Memory), m.wf = true →
      (l.foldl (fun m c => if c.1 < size then writeByte m c.1 c.2 else m) m).wf = true := by
    intro l
    induction l with
    | nil => exact fun m h => h
    | cons c l ih =>
      intro m h
      simp only [List.foldl_cons]
      split
      · exact ih _ (writeByte_wf h)
      · exact ih _ h
  exact key img _ rfl

/-- A store at cold reset is in the canonical form. -/
theorem freshMemory_wf (size : Nat) (init : Drawable Image) (k : Nat) : (freshMemory size init k).wf = true := by
  cases init with
  | fixed img => exact imageMemory_wf size img
  | draw => rfl

/-- What `StoreWrite` can answer: the store with the value's bytes written, inside the mirror, or a refusal. -/
theorem storeWrite_cases {m : Memory} {mask : Nat} {w : Width} {pa v : Word} :
    (pastMirror mask (storeOffset mask pa) w = true ∧ storeWrite m mask w pa v = .refuse .mirrorEnd) ∨
    (pastMirror mask (storeOffset mask pa) w = false ∧
      storeWrite m mask w pa v = .ok (writeBytes m (storeOffset mask pa) (splitBytes w v))) := by
  unfold storeWrite
  cases h : pastMirror mask (storeOffset mask pa) w <;> simp

/-- What `StoreRead` can answer. -/
theorem storeRead_cases {m : Memory} {mask : Nat} {w : Width} {pa : Word} :
    (pastMirror mask (storeOffset mask pa) w = true ∧ storeRead m mask w pa = .refuse .mirrorEnd) ∨
    (pastMirror mask (storeOffset mask pa) w = false ∧
      storeRead m mask w pa = .ok (joinBytes (readBytes m (storeOffset mask pa) (widthBytes w)))) := by
  unfold storeRead
  cases h : pastMirror mask (storeOffset mask pa) w <;> simp

/-- A store answered by `StoreWrite` is in the canonical form. -/
theorem storeWrite_wf {m m' : Memory} {mask : Nat} {w : Width} {pa v : Word} (h : m.wf = true)
    (hw : storeWrite m mask w pa v = .ok m') : m'.wf = true := by
  rcases storeWrite_cases (m := m) (mask := mask) (w := w) (pa := pa) (v := v) with ⟨-, h'⟩ | ⟨-, h'⟩
  · rw [h'] at hw; cases hw
  · rw [h'] at hw; cases hw; exact writeBytes_wf h

@[simp] theorem splitBytes_length (w : Width) (v : Word) : (splitBytes w v).length = widthBytes w := by
  cases w <;> rfl

/-- One more byte below a joined value (R82). -/
theorem joinByte_toNat {a : Word} {b : Byte} (h : a.toNat < 2 ^ 24) :
    ((a <<< 8) ||| b.setWidth 32).toNat = a.toNat * 256 + b.toNat := by
  have hb := b.isLt
  rw [BitVec.toNat_or, BitVec.toNat_shiftLeft, BitVec.toNat_setWidth, Nat.shiftLeft_eq,
    Nat.mod_eq_of_lt (by omega : a.toNat * 2 ^ 8 < 2 ^ 32), Nat.mod_eq_of_lt (by omega : b.toNat < 2 ^ 32),
    Nat.mul_comm, ← Nat.two_pow_add_eq_or_of_lt hb]
  omega

end Sys2Proof.Machine
end

