-- ==== Sys2Proof/Laws/Banks.lean ====
section
/-! SUPPORT. What a physical read and a physical write can do to the state. -/

namespace Sys2Proof.Machine

/-- A RAM read changes nothing. -/
@[simp] theorem ramRead_snd (b : Nat) (w : Width) (pa : Word) (s : State) : (ramRead b w pa s).2 = s := by
  unfold ramRead; split <;> rfl

/-- A ROM read changes nothing, redirected or not. -/
@[simp] theorem romRead_snd (w : Width) (pa : Word) (s : State) : (romRead w pa s).2 = s := by
  unfold romRead overlayRead
  split
  · split <;> simp
  · rfl

/-- An Empty read changes nothing. -/
@[simp] theorem emptyRead_snd (w : Width) (pa : Word) (s : State) : (emptyRead w pa s).2 = s := by
  cases w <;> rfl

/-- An I/O read records the access and takes a draw, whatever is answered. -/
@[simp] theorem ioRead_snd (w : Width) (pa : Word) (s : State) : (ioRead w pa s).2 = ioReadState w pa s := by
  unfold ioRead; split <;> rfl

/-- An I/O write records the access and takes a draw. -/
@[simp] theorem ioWrite_snd (w : Width) (pa v : Word) (s : State) : (ioWrite w pa v s).2 = ioWriteState w pa v s := by
  unfold ioWrite; split <;> rfl

/-- What a physical read does to the state: nothing, or an I/O access (R89). -/
theorem physRead_state (w : Width) (pa : Word) (s : State) :
    (physRead w pa s).2 = if bankAt s.slots (slotOf pa) = .io then ioReadState w pa s else s := by
  unfold physRead bankRead
  cases h : bankAt s.slots (slotOf pa) <;> simp [vmonoRead, vcolorRead]

/-- A physical access goes to the bank of its slot, the address unmodified (R201). -/
theorem physRead_eq (w : Width) (pa : Word) (s : State) :
    physRead w pa s = bankRead (bankAt s.slots (pa.toNat / 0x10000)) w pa s := rfl

/-- R202. -/
theorem physWrite_eq (w : Width) (pa v : Word) (s : State) :
    physWrite w pa v s = bankWrite (bankAt s.slots (pa.toNat / 0x10000)) w pa v s := rfl

/-- A store read never faults. -/
theorem storeRead_ne_fault (m : Memory) (mask : Nat) (w : Width) (pa : Word) (f : FaultRecord) :
    storeRead m mask w pa ≠ .fault f := by
  unfold storeRead; split <;> simp

theorem ramRead_ne_fault (b : Nat) (w : Width) (pa : Word) (s : State) (f : FaultRecord) :
    (ramRead b w pa s).1 ≠ .fault f := by
  unfold ramRead; split <;> simp [storeRead_ne_fault]

/-- The only fault of a physical read is the bank's bus error (R241). -/
theorem physRead_fault {w : Width} {pa : Word} {s : State} {f : FaultRecord} (h : (physRead w pa s).1 = .fault f) :
    f = bankFault pa w false s.diagPc := by
  unfold physRead bankRead at h
  cases hb : bankAt s.slots (slotOf pa) with
  | ram b => simp only [hb] at h; exact absurd h (ramRead_ne_fault _ _ _ _ _)
  | rom =>
    simp only [hb, romRead, overlayRead] at h
    split at h
    · split at h
      · exact absurd h (ramRead_ne_fault _ _ _ _ _)
      · simp at h
    · exact absurd h (storeRead_ne_fault _ _ _ _ _)
  | videoMono => simp only [hb, vmonoRead] at h; exact absurd h (storeRead_ne_fault _ _ _ _ _)
  | videoColor => simp only [hb, vcolorRead] at h; exact absurd h (storeRead_ne_fault _ _ _ _ _)
  | empty => simp only [hb] at h; cases w <;> simp [emptyRead] at h <;> exact h.symm
  | busErr => simp only [hb, Ans.fault.injEq] at h; exact h.symm
  | io => simp only [hb, ioRead] at h; split at h <;> simp at h; exact h.symm

/-- The stores a physical write may leave: the old ones, or one store with a value of the width written inside its
mirror (R241). -/
inductive StoreChange (w : Width) (v : Word) (s : State) : Stores → Prop
  | none : StoreChange w v s s.stores
  | ram (b : Nat) (m : Memory) (o : Nat) (h : s.stores.ram[b]? = some m) :
      StoreChange w v s { s.stores with ram := s.stores.ram.set b (writeBytes m o (splitBytes w v)) }
  | vmono (o : Nat) :
      StoreChange w v s { s.stores with vmono := writeBytes s.stores.vmono o (splitBytes w v) }
  | vcolor (o : Nat) :
      StoreChange w v s { s.stores with vcolor := writeBytes s.stores.vcolor o (splitBytes w v) }

/-- What a physical write can do to the state: write one store, log a discarded ROM write, or make an I/O access. -/
theorem physWrite_state (w : Width) (pa v : Word) (s : State) :
    (∃ m, StoreChange w v s m ∧ (physWrite w pa v s).2 = s.setStores m) ∨
    (physWrite w pa v s).2 = s.log (.romWriteDiscarded w pa v s.diagPc) ∨
    (physWrite w pa v s).2 = ioWriteState w pa v s := by
  have same : ∀ x : Ans Unit × State, x.2 = s → ∃ m, StoreChange w v s m ∧ x.2 = s.setStores m :=
    fun x hx => ⟨s.stores, .none, by rw [hx]; rfl⟩
  unfold physWrite bankWrite
  cases hb : bankAt s.slots (slotOf pa) with
  | ram b =>
    refine .inl ?_
    dsimp only [ramWrite]
    split
    · rename_i bank m _ hm
      rcases storeWrite_cases (m := m) (mask := bank.size - 1) (w := w) (pa := pa) (v := v) with ⟨-, h⟩ | ⟨-, h⟩
      · rw [h]; exact same _ rfl
      · rw [h]; exact ⟨_, .ram b m _ hm, rfl⟩
    · exact same _ rfl
  | rom => exact .inr (.inl rfl)
  | videoMono =>
    refine .inl ?_
    dsimp only [vmonoWrite]
    rcases storeWrite_cases (m := s.stores.vmono) (mask := s.params.vmonoSize - 1) (w := w) (pa := pa) (v := v) with
      ⟨-, h⟩ | ⟨-, h⟩
    · rw [h]; exact same _ rfl
    · rw [h]; exact ⟨_, .vmono _, rfl⟩
  | videoColor =>
    refine .inl ?_
    dsimp only [vcolorWrite]
    rcases storeWrite_cases (m := s.stores.vcolor) (mask := s.params.vcolorSize - 1) (w := w) (pa := pa) (v := v) with
      ⟨-, h⟩ | ⟨-, h⟩
    · rw [h]; exact same _ rfl
    · rw [h]; exact ⟨_, .vcolor _, rfl⟩
  | empty =>
    refine .inl ?_
    cases w with
    | byte => exact same _ rfl
    | word => exact same _ rfl
    | long =>
      dsimp only [emptyWrite]
      split
      · exact same _ rfl
      · unfold emptyRedirect
        split
        · rename_i bank m _ hm
          split
          · exact same _ rfl
          · exact ⟨_, .ram _ m _ hm, rfl⟩
        · exact same _ rfl
  | busErr => exact .inl (same _ rfl)
  | io => exact .inr (.inr (ioWrite_snd ..))

/-- The only fault of a physical write is the bank's bus error (R241). -/
theorem physWrite_fault {w : Width} {pa v : Word} {s : State} {f : FaultRecord}
    (h : (physWrite w pa v s).1 = .fault f) : f = bankFault pa w true s.diagPc := by
  have hs : ∀ (m : Memory) (mask : Nat) (put : Memory → State),
      (commitStore s put (storeWrite m mask w pa v)).1 ≠ .fault f := by
    intro m mask put
    unfold storeWrite
    split <;> simp [commitStore]
  unfold physWrite bankWrite at h
  cases hb : bankAt s.slots (slotOf pa) with
  | ram b =>
    simp only [hb, ramWrite] at h
    split at h
    · exact absurd h (hs _ _ _)
    · simp at h
  | rom => simp [hb, romWrite] at h
  | videoMono => simp only [hb, vmonoWrite] at h; exact absurd h (hs _ _ _)
  | videoColor => simp only [hb, vcolorWrite] at h; exact absurd h (hs _ _ _)
  | empty =>
    simp only [hb] at h
    cases w with
    | byte => simp only [emptyWrite, Ans.fault.injEq] at h; exact h.symm
    | word => simp only [emptyWrite, Ans.fault.injEq] at h; exact h.symm
    | long =>
      simp only [emptyWrite, emptyRedirect] at h
      split at h
      · simp only [Ans.fault.injEq] at h; exact h.symm
      · split at h
        · split at h <;> simp at h
        · simp at h
  | busErr => simp only [hb, Ans.fault.injEq] at h; exact h.symm
  | io => simp only [hb, ioWrite] at h; split at h <;> simp at h; exact h.symm

end Sys2Proof.Machine
end

