-- ==== Sys2Proof/Laws/Decode.lean ====
section
/-! SUPPORT. The header word and its fields: what the encoder packs, the decoder reads (`30_encoding.md` rule R160). -/

namespace Sys2Proof

/-- Every OP value is below 256 (R160). -/
theorem opCode_lt (op : Op) : opCode op < 256 := by cases op <;> decide

/-- Every operation is found from its OP value: no two share one (R162). -/
@[simp] theorem opOfCode_opCode (op : Op) : opOfCode (opCode op) = some op := by cases op <;> decide

/-- An OP value that is found is the operation's (R162). -/
theorem opCode_of_opOfCode {c : Nat} {op : Op} (h : opOfCode c = some op) : opCode op = c := by
  simpa using List.find?_some h

/-- The number a header word holds. -/
theorem headerWord_toNat (op : Op) (s d wr : Bool) (fc : BitVec 3) (ci wp m : Bool) :
    (headerWord op s d wr fc ci wp m).toNat = opCode op + s.toNat * 0x100 + d.toNat * 0x200 + wr.toNat * 0x400
      + fc.toNat * 0x800 + ci.toNat * 0x4000 + wp.toNat * 0x8000 + m.toNat * 0x10000 := by
  have := opCode_lt op
  have := fc.isLt
  have := s.toNat_le
  have := d.toNat_le
  have := wr.toNat_le
  have := ci.toNat_le
  have := wp.toNat_le
  have := m.toNat_le
  rw [headerWord, BitVec.toNat_ofNat, Nat.mod_eq_of_lt (by omega)]

/-- OP is the low byte of a header. -/
theorem headerOp_eq (h : Word) : headerOp h = h.toNat % 256 := by
  simpa [headerOp] using Nat.and_two_pow_sub_one_eq_mod h.toNat 8

/-- The decoder reads the OP the encoder wrote (R160). -/
@[simp] theorem headerOp_headerWord (op : Op) (s d wr : Bool) (fc : BitVec 3) (ci wp m : Bool) :
    headerOp (headerWord op s d wr fc ci wp m) = opCode op := by
  have := opCode_lt op
  rw [headerOp_eq, headerWord_toNat]
  omega

section
variable (op : Op) (s d wr : Bool) (fc : BitVec 3) (ci wp m : Bool)

/-- The bits of a header word, from its number. -/
theorem headerWord_getLsbD (k : Nat) : (headerWord op s d wr fc ci wp m).getLsbD k
    = decide ((opCode op + s.toNat * 0x100 + d.toNat * 0x200 + wr.toNat * 0x400 + fc.toNat * 0x800 + ci.toNat * 0x4000
      + wp.toNat * 0x8000 + m.toNat * 0x10000) / 2 ^ k % 2 = 1) := by
  rw [BitVec.getLsbD, headerWord_toNat, Nat.testBit_eq_decide_div_mod_eq]

@[simp] theorem headerS_headerWord : headerS (headerWord op s d wr fc ci wp m) = s := by
  rw [headerS, headerWord_getLsbD]
  have := opCode_lt op
  have := fc.isLt
  have := s.toNat_le
  have := d.toNat_le
  have := wr.toNat_le
  have := ci.toNat_le
  have := wp.toNat_le
  have := m.toNat_le
  cases s <;> simp <;> omega

@[simp] theorem headerD_headerWord : headerD (headerWord op s d wr fc ci wp m) = d := by
  rw [headerD, headerWord_getLsbD]
  have := opCode_lt op
  have := fc.isLt
  have := s.toNat_le
  have := d.toNat_le
  have := wr.toNat_le
  have := ci.toNat_le
  have := wp.toNat_le
  have := m.toNat_le
  cases d <;> simp <;> omega

@[simp] theorem headerWr_headerWord : headerWr (headerWord op s d wr fc ci wp m) = wr := by
  rw [headerWr, headerWord_getLsbD]
  have := opCode_lt op
  have := fc.isLt
  have := s.toNat_le
  have := d.toNat_le
  have := wr.toNat_le
  have := ci.toNat_le
  have := wp.toNat_le
  have := m.toNat_le
  cases wr <;> simp <;> omega

@[simp] theorem headerCi_headerWord : headerCi (headerWord op s d wr fc ci wp m) = ci := by
  rw [headerCi, headerWord_getLsbD]
  have := opCode_lt op
  have := fc.isLt
  have := s.toNat_le
  have := d.toNat_le
  have := wr.toNat_le
  have := ci.toNat_le
  have := wp.toNat_le
  have := m.toNat_le
  cases ci <;> simp <;> omega

@[simp] theorem headerWp_headerWord : headerWp (headerWord op s d wr fc ci wp m) = wp := by
  rw [headerWp, headerWord_getLsbD]
  have := opCode_lt op
  have := fc.isLt
  have := s.toNat_le
  have := d.toNat_le
  have := wr.toNat_le
  have := ci.toNat_le
  have := wp.toNat_le
  have := m.toNat_le
  cases wp <;> simp <;> omega

@[simp] theorem headerM_headerWord : headerM (headerWord op s d wr fc ci wp m) = m := by
  rw [headerM, headerWord_getLsbD]
  have := opCode_lt op
  have := fc.isLt
  have := s.toNat_le
  have := d.toNat_le
  have := wr.toNat_le
  have := ci.toNat_le
  have := wp.toNat_le
  have := m.toNat_le
  cases m <;> simp <;> omega

@[simp] theorem headerFc_headerWord : headerFc (headerWord op s d wr fc ci wp m) = fc := by
  apply BitVec.eq_of_toNat_eq
  rw [headerFc, BitVec.extractLsb'_toNat, headerWord_toNat, Nat.shiftRight_eq_div_pow]
  have := opCode_lt op
  have := fc.isLt
  have := s.toNat_le
  have := d.toNat_le
  have := wr.toNat_le
  have := ci.toNat_le
  have := wp.toNat_le
  have := m.toNat_le
  omega

end

end Sys2Proof
end

