-- ==== Sys2Proof/Laws/Runs.lean ====
section
/-! SUPPORT. The operations on run tables do, position by position, what the spec states slot by slot. -/

namespace Sys2Proof.Machine

variable {α : Type} [DecidableEq α]

/-- Pushing a run shifts the table behind it. -/
theorem runsAt_push (d : α) (n : Nat) (a : α) (r : Runs α) (k : Nat) :
    runsAt d (runsPush n a r) k = if k < n then a else runsAt d r (k - n) := by
  unfold runsPush
  by_cases hn : n = 0
  · simp [hn]
  · simp only [hn, if_false]
    cases r with
    | nil => rfl
    | cons c r' =>
      obtain ⟨m, b⟩ := c
      dsimp only
      split
      · rename_i hab
        subst hab
        simp only [runsAt]
        by_cases h1 : k < n
        · simp [h1, show k < n + m by omega]
        · by_cases h2 : k - n < m
          · simp [h1, h2, show k < n + m by omega]
          · simp [h1, h2, show ¬ k < n + m by omega, Nat.sub_sub]
      · rfl

/-- A prefix of one table before another. -/
theorem runsAt_prefix (d : α) (t : Runs α) (n : Nat) (rest : Runs α) (k : Nat) :
    runsAt d (runsPrefix d t n rest) k = if k < n then runsAt d t k else runsAt d rest (k - n) := by
  induction t generalizing n k with
  | nil => simp only [runsPrefix, runsAt_push, runsAt]
  | cons c r ih =>
    obtain ⟨m, a⟩ := c
    simp only [runsPrefix]
    split
    · rename_i hnm
      rw [runsAt_push]
      by_cases hk : k < n
      · simp [hk, runsAt, show k < m by omega]
      · simp [hk]
    · rename_i hnm
      rw [runsAt_push, ih]
      by_cases hk : k < m
      · simp [hk, runsAt, show k < n by omega]
      · by_cases hk2 : k < n
        · simp [hk, hk2, runsAt, show k - m < n - m by omega]
        · simp [hk, hk2, show ¬ k - m < n - m by omega, show k - m - (n - m) = k - n by omega]

omit [DecidableEq α] in
/-- A table from a position on. -/
theorem runsAt_drop (d : α) (t : Runs α) (n k : Nat) : runsAt d (runsDrop t n) k = runsAt d t (n + k) := by
  induction t generalizing n with
  | nil => rfl
  | cons c r ih =>
    obtain ⟨m, a⟩ := c
    simp only [runsDrop]
    split
    · rename_i h
      simp only [runsAt]
      by_cases hk : k < m - n
      · simp [hk, show n + k < m by omega]
      · simp [hk, show ¬ n + k < m by omega, show k - (m - n) = n + k - m by omega]
    · rename_i h
      rw [ih]
      simp [runsAt, show ¬ n + k < m by omega, show n - m + k = n + k - m by omega]

/-- What a table holds after a range of it is set (R211). -/
theorem runsAt_set (d : α) (t : Runs α) (start count : Nat) (a : α) (k : Nat) :
    runsAt d (runsSet d t start count a) k
      = if start ≤ k ∧ k < start + count then a else runsAt d t k := by
  rw [runsSet, runsAt_prefix, runsAt_push, runsAt_drop]
  by_cases h1 : k < start
  · simp [h1, show ¬ start ≤ k by omega]
  · by_cases h2 : k - start < count
    · simp [h1, h2, show start ≤ k by omega, show k < start + count by omega]
    · simp [h1, h2, show ¬ k < start + count by omega, show start + count + (k - start - count) = k by omega]

/-- `runsUniform` says what it is for. -/
theorem runsUniform_iff (d : α) (t : Runs α) (n : Nat) (a : α) :
    runsUniform d t n a = true ↔ ∀ k < n, runsAt d t k = a := by
  induction t generalizing n with
  | nil =>
    simp only [runsUniform, runsAt, Bool.or_eq_true, beq_iff_eq, decide_eq_true_eq]
    constructor
    · rintro (h | h) k hk
      · omega
      · exact h
    · intro h
      rcases Nat.eq_zero_or_pos n with h0 | h0
      · exact .inl h0
      · exact .inr (h 0 h0)
  | cons c r ih =>
    obtain ⟨m, b⟩ := c
    simp only [runsUniform, runsAt, Bool.and_eq_true, Bool.or_eq_true, beq_iff_eq, decide_eq_true_eq, ih]
    constructor
    · rintro ⟨h1, h2⟩ k hk
      by_cases hm : k < m
      · simp only [hm, if_true]
        rcases h1 with (h | h) | h
        · omega
        · omega
        · exact h
      · simp only [hm, if_false]
        rcases h2 with h | h
        · omega
        · exact h _ (by omega)
    · intro h
      constructor
      · by_cases h0 : n = 0
        · exact .inl (.inl h0)
        · by_cases hm : m = 0
          · exact .inl (.inr hm)
          · have := h 0 (by omega)
            simp only [show 0 < m by omega, if_true] at this
            exact .inr this
      · by_cases hnm : n ≤ m
        · exact .inl hnm
        · refine .inr fun k hk => ?_
          have := h (m + k) (by omega)
          simpa [show ¬ m + k < m by omega, Nat.add_sub_cancel_left] using this

/-- `runsAgree` says what it is for. -/
theorem runsAgree_iff (d : α) (x y : Runs α) (n : Nat) :
    runsAgree d x y n = true ↔ ∀ k < n, runsAt d x k = runsAt d y k := by
  induction x generalizing y n with
  | nil =>
    rw [runsAgree, runsUniform_iff]
    exact ⟨fun h k hk => (h k hk).symm, fun h k hk => (h k hk).symm⟩
  | cons c r ih =>
    obtain ⟨m, a⟩ := c
    simp only [runsAgree, Bool.and_eq_true, Bool.or_eq_true, decide_eq_true_eq, runsUniform_iff, ih, runsAt_drop,
      runsAt]
    constructor
    · rintro ⟨h1, h2⟩ k hk
      by_cases hm : k < m
      · simp [hm, h1 k (by omega)]
      · simp only [hm, if_false]
        rcases h2 with h | h
        · omega
        · have := h (k - m) (by omega)
          rwa [show m + (k - m) = k by omega] at this
    · intro h
      constructor
      · intro k hk
        have := h k (by omega)
        simp only [show k < m by omega, if_true] at this
        exact this.symm
      · by_cases hnm : n ≤ m
        · exact .inl hnm
        · refine .inr fun k hk => ?_
          have := h (m + k) (by omega)
          simpa [show ¬ m + k < m by omega, Nat.add_sub_cancel_left] using this

/-- Setting a range inside a table keeps its length. -/
theorem runsTotal_push (n : Nat) (a : α) (r : Runs α) : runsTotal (runsPush n a r) = n + runsTotal r := by
  unfold runsPush
  by_cases hn : n = 0
  · simp [hn]
  · simp only [hn, if_false]
    cases r with
    | nil => rfl
    | cons c r' =>
      obtain ⟨m, b⟩ := c
      dsimp only
      split <;> simp [runsTotal, Nat.add_assoc]

theorem runsTotal_prefix (d : α) (t : Runs α) (n : Nat) (rest : Runs α) :
    runsTotal (runsPrefix d t n rest) = n + runsTotal rest := by
  induction t generalizing n with
  | nil => simp [runsPrefix, runsTotal_push]
  | cons c r ih =>
    obtain ⟨m, a⟩ := c
    simp only [runsPrefix]
    split
    · exact runsTotal_push ..
    · rw [runsTotal_push, ih]; omega

omit [DecidableEq α] in
theorem runsTotal_drop (t : Runs α) (n : Nat) : runsTotal (runsDrop t n) = runsTotal t - n := by
  induction t generalizing n with
  | nil => simp [runsDrop, runsTotal]
  | cons c r ih =>
    obtain ⟨m, a⟩ := c
    simp only [runsDrop]
    split
    · simp only [runsTotal]; omega
    · rw [ih]; simp only [runsTotal]; omega

theorem runsTotal_set (d : α) (t : Runs α) (start count : Nat) (a : α) (h : start + count ≤ runsTotal t) :
    runsTotal (runsSet d t start count a) = runsTotal t := by
  rw [runsSet, runsTotal_prefix, runsTotal_push, runsTotal_drop]; omega

/-- The canonical form is kept. -/
theorem runsCanonical_push (n : Nat) (a : α) (r : Runs α) (h : runsCanonical r = true) :
    runsCanonical (runsPush n a r) = true := by
  unfold runsPush
  by_cases hn : n = 0
  · simpa [hn] using h
  · simp only [hn, if_false]
    cases r with
    | nil => simp [runsCanonical, hn]
    | cons c r' =>
      obtain ⟨m, b⟩ := c
      dsimp only
      split
      · rename_i hab
        subst hab
        simp only [runsCanonical, Bool.and_eq_true] at h ⊢
        refine ⟨⟨?_, h.1.2⟩, h.2⟩
        have : n + m ≠ 0 := by omega
        simpa using this
      · rename_i hab
        simp only [runsCanonical, Bool.and_eq_true] at h ⊢
        exact ⟨⟨by simpa using hn, by simpa using hab⟩, h⟩

theorem runsCanonical_tail {c : Nat × α} {r : Runs α} (h : runsCanonical (c :: r) = true) :
    runsCanonical r = true := by
  obtain ⟨n, a⟩ := c
  simp only [runsCanonical, Bool.and_eq_true] at h
  exact h.2

theorem runsCanonical_prefix (d : α) (t : Runs α) (n : Nat) (rest : Runs α) (h : runsCanonical rest = true) :
    runsCanonical (runsPrefix d t n rest) = true := by
  induction t generalizing n with
  | nil => exact runsCanonical_push _ _ _ h
  | cons c r ih =>
    obtain ⟨m, a⟩ := c
    simp only [runsPrefix]
    split
    · exact runsCanonical_push _ _ _ h
    · exact runsCanonical_push _ _ _ (ih _)

theorem runsCanonical_drop (t : Runs α) (n : Nat) (h : runsCanonical t = true) :
    runsCanonical (runsDrop t n) = true := by
  induction t generalizing n with
  | nil => rfl
  | cons c r ih =>
    obtain ⟨m, a⟩ := c
    simp only [runsDrop]
    split
    · rename_i hlt
      simp only [runsCanonical, Bool.and_eq_true] at h ⊢
      refine ⟨⟨?_, h.1.2⟩, h.2⟩
      have : m - n ≠ 0 := by omega
      simpa using this
    · exact ih _ (runsCanonical_tail h)

theorem runsCanonical_set (d : α) (t : Runs α) (start count : Nat) (a : α) (h : runsCanonical t = true) :
    runsCanonical (runsSet d t start count a) = true :=
  runsCanonical_prefix _ _ _ _ (runsCanonical_push _ _ _ (runsCanonical_drop _ _ h))

omit [DecidableEq α] in
/-- `emptyOwnersOk` says what it is for (R503). -/
theorem emptyOwnersOk_iff (slots : Runs BankRef) (owner alloc : Runs (Option Nat)) :
    emptyOwnersOk slots owner alloc = true ↔
      ∀ k < runsTotal slots, bankAt slots k = .empty → runsAt none owner k = runsAt none alloc k := by
  induction slots generalizing owner alloc with
  | nil => simp [emptyOwnersOk, runsTotal]
  | cons c r ih =>
    obtain ⟨n, b⟩ := c
    simp only [emptyOwnersOk, runsTotal, bankAt, runsAt, Bool.and_eq_true, Bool.or_eq_true, decide_eq_true_eq,
      runsAgree_iff, ih, runsAt_drop]
    constructor
    · rintro ⟨h1, h2⟩ k hk hb
      by_cases hn : k < n
      · simp only [hn, if_true] at hb
        rcases h1 with h | h
        · exact absurd hb h
        · exact h k hn
      · simp only [hn, if_false] at hb
        have := h2 (k - n) (by omega) hb
        rwa [show n + (k - n) = k by omega] at this
    · intro h
      constructor
      · by_cases hb : b = .empty
        · refine .inr fun k hk => h k (by omega) ?_
          simp [hk, hb]
        · exact .inl hb
      · intro k hk hb
        refine h (n + k) (by omega) ?_
        simpa [show ¬ n + k < n by omega, Nat.add_sub_cancel_left] using hb

end Sys2Proof.Machine
end

