-- ==== Sys2Proof/Laws/Layout.lean ====
section
/-! SUPPORT. What the table operations and the stores keep of the invariant. -/

namespace Sys2Proof.Machine

/-- What a slot holds after MAP (R211). -/
theorem bankAt_mapSlots (t : Runs BankRef) (start count : Nat) (b : BankRef) (k : Nat) :
    bankAt (mapSlots t start count b) k = if start ≤ k ∧ k < start + count then b else bankAt t k :=
  runsAt_set BankRef.busErr t start count b k

/-- A table that covers the 65536 slots in its canonical form, each slot with a legal bank (R212). -/
def TableOk (p : Params) (t : Runs BankRef) : Prop :=
  runsTotal t = numSlots ∧ runsCanonical t = true ∧ ∀ k, legalBank p (bankAt t k) = true

/-- MAP keeps the table covering every slot (R212). -/
theorem tableOk_map {p : Params} {t : Runs BankRef} {start count : Nat} {b : BankRef} (h : TableOk p t)
    (hr : start + count ≤ numSlots) (hb : legalBank p b = true) : TableOk p (mapSlots t start count b) := by
  obtain ⟨ht, hc, hl⟩ := h
  refine ⟨?_, runsCanonical_set BankRef.busErr t start count b hc, fun k => ?_⟩
  · rw [mapSlots, runsTotal_set BankRef.busErr t start count b (by omega), ht]
  · rw [bankAt_mapSlots]
    split
    · exact hb
    · exact hl k

/-- The table of a cold reset covers every slot (R503). -/
theorem tableOk_build {p : Params} (h : mapCallsOk p = true) : TableOk p (buildSlots p) := by
  have key : ∀ (l : List MapCall) (t : Runs BankRef), TableOk p t →
      (l.all fun c => decide (c.start + c.count ≤ numSlots) && legalBank p c.bank) = true →
      TableOk p (l.foldl (fun t c => mapSlots t c.start c.count c.bank) t) := by
    intro l
    induction l with
    | nil => exact fun t ht _ => ht
    | cons c l ih =>
      intro t ht hl
      simp only [List.all_cons, Bool.and_eq_true, decide_eq_true_eq] at hl
      exact ih _ (tableOk_map ht hl.1.1 hl.1.2) hl.2
  refine key p.memoryMap _ ⟨rfl, by decide, fun k => ?_⟩ h
  have : bankAt [(numSlots, .busErr)] k = .busErr := by simp [bankAt, runsAt]
  rw [this]; rfl

/-- A configuration that is accepted has a legal MEMORY_MAP (R503). -/
theorem mapCallsOk_of_configOk {p : Params} (h : configOk p = true) : mapCallsOk p = true := by
  simp only [configOk, Bool.and_eq_true] at h
  exact h.1.1.2

theorem freshRam_length (k : Nat) (l : List RamBank) : (freshRam k l).length = l.length := by
  induction l generalizing k with
  | nil => rfl
  | cons r l ih => simp [freshRam, ih]

theorem freshRam_wf (k : Nat) (l : List RamBank) : ∀ x ∈ freshRam k l, x.wf = true := by
  induction l generalizing k with
  | nil => simp [freshRam]
  | cons r l ih =>
    simp only [freshRam, List.mem_cons]
    rintro x (rfl | h)
    · exact freshMemory_wf ..
    · exact ih _ _ h

/-- The stores of a cold reset are in their canonical form (R502). -/
theorem freshStores_wf (p : Params) (k : Nat) : StoresWf (freshStores p k) :=
  ⟨freshRam_wf k p.ram, imageMemory_wf .., freshMemory_wf .., freshMemory_wf ..⟩

/-- A physical write keeps the stores in their canonical form, and each RAM bank its store. -/
theorem storeChange_wf {w : Width} {v : Word} {s : State} {m : Stores} (h : StoreChange w v s m)
    (hs : StoresWf s.stores) : StoresWf m ∧ m.ram.length = s.stores.ram.length := by
  obtain ⟨hr, ho, hm, hc⟩ := hs
  cases h with
  | none => exact ⟨⟨hr, ho, hm, hc⟩, rfl⟩
  | ram b x o hx =>
    refine ⟨⟨fun y hy => ?_, ho, hm, hc⟩, by simp⟩
    rcases List.mem_or_eq_of_mem_set hy with h | rfl
    · exact hr y h
    · exact writeBytes_wf (hr x (List.mem_of_getElem? hx))
  | vmono o => exact ⟨⟨hr, ho, writeBytes_wf hm, hc⟩, rfl⟩
  | vcolor o => exact ⟨⟨hr, ho, hm, writeBytes_wf hc⟩, rfl⟩

end Sys2Proof.Machine
end

