-- ==== Sys2Proof/Laws/PerInstr.lean ====
section
/-! SUPPORT. Statements made of every instruction, one lemma per constructor. -/

namespace Sys2Proof.Laws

/-- R161: the encoder writes one header word whose OP is some operation's and exactly as many operand words as that
OP fixes. -/
def EncodedLength.Statement (i : Instr) : Prop :=
  i.wellFormed = true →
    ∃ h args op, encode i = h :: args ∧ opOfCode (headerOp h) = some op ∧ args.length = opOperands op

/-- A header the encoder writes and the operand words after it make a command of the length OP fixes. -/
theorem encodedLength_of {i : Instr} {op : Op} {s d wr : Bool} {fc : BitVec 3} {ci wp m : Bool} {args : List Word}
    (h : encode i = headerWord op s d wr fc ci wp m :: args) (hl : args.length = opOperands op) :
    EncodedLength.Statement i :=
  fun _ => ⟨_, args, op, h, by simp, hl⟩

theorem EncodedLength.wrTc (v : Word) : EncodedLength.Statement (.wrTc v) :=
  encodedLength_of rfl rfl

theorem EncodedLength.wrSrp (v : Quad) : EncodedLength.Statement (.wrSrp v) :=
  encodedLength_of rfl rfl

theorem EncodedLength.wrCrp (v : Quad) : EncodedLength.Statement (.wrCrp v) :=
  encodedLength_of rfl rfl

theorem EncodedLength.wrTt0 (v : Word) : EncodedLength.Statement (.wrTt0 v) :=
  encodedLength_of rfl rfl

theorem EncodedLength.wrTt1 (v : Word) : EncodedLength.Statement (.wrTt1 v) :=
  encodedLength_of rfl rfl

theorem EncodedLength.wrMmusr (v : Half) : EncodedLength.Statement (.wrMmusr v) :=
  encodedLength_of rfl rfl

theorem EncodedLength.rdTc : EncodedLength.Statement .rdTc :=
  encodedLength_of rfl rfl

theorem EncodedLength.rdSrp : EncodedLength.Statement .rdSrp :=
  encodedLength_of rfl rfl

theorem EncodedLength.rdCrp : EncodedLength.Statement .rdCrp :=
  encodedLength_of rfl rfl

theorem EncodedLength.rdTt0 : EncodedLength.Statement .rdTt0 :=
  encodedLength_of rfl rfl

theorem EncodedLength.rdTt1 : EncodedLength.Statement .rdTt1 :=
  encodedLength_of rfl rfl

theorem EncodedLength.rdMmusr : EncodedLength.Statement .rdMmusr :=
  encodedLength_of rfl rfl

theorem EncodedLength.translate (acc : Access) (la : Word) : EncodedLength.Statement (.translate acc la) :=
  encodedLength_of rfl rfl

theorem EncodedLength.tt0Match (acc : Access) (la : Word) : EncodedLength.Statement (.tt0Match acc la) :=
  encodedLength_of rfl rfl

theorem EncodedLength.tt1Match (acc : Access) (la : Word) : EncodedLength.Statement (.tt1Match acc la) :=
  encodedLength_of rfl rfl

theorem EncodedLength.walk (acc : Access) (la : Word) : EncodedLength.Statement (.walk acc la) :=
  encodedLength_of rfl rfl

theorem EncodedLength.atcLookup (acc : Access) (la : Word) : EncodedLength.Statement (.atcLookup acc la) :=
  encodedLength_of rfl rfl

theorem EncodedLength.atcInsert (sup dat ci wp m : Bool) (la pa : Word) : EncodedLength.Statement (.atcInsert sup dat ci wp m la pa) :=
  encodedLength_of rfl rfl

theorem EncodedLength.flushAll : EncodedLength.Statement .flushAll :=
  encodedLength_of rfl rfl

theorem EncodedLength.flushFc (fc : BitVec 3) : EncodedLength.Statement (.flushFc fc) :=
  encodedLength_of rfl rfl

theorem EncodedLength.flushPage (fc : BitVec 3) (la : Word) : EncodedLength.Statement (.flushPage fc la) :=
  encodedLength_of rfl rfl

theorem EncodedLength.lread8 (sup dat : Bool) (la : Word) : EncodedLength.Statement (.lread8 sup dat la) :=
  encodedLength_of rfl rfl

theorem EncodedLength.lread16 (sup dat : Bool) (la : Word) : EncodedLength.Statement (.lread16 sup dat la) :=
  encodedLength_of rfl rfl

theorem EncodedLength.lread32 (sup dat : Bool) (la : Word) : EncodedLength.Statement (.lread32 sup dat la) :=
  encodedLength_of rfl rfl

theorem EncodedLength.lwrite8 (sup dat : Bool) (la : Word) (v : Byte) : EncodedLength.Statement (.lwrite8 sup dat la v) :=
  encodedLength_of rfl rfl

theorem EncodedLength.lwrite16 (sup dat : Bool) (la : Word) (v : Half) : EncodedLength.Statement (.lwrite16 sup dat la v) :=
  encodedLength_of rfl rfl

theorem EncodedLength.lwrite32 (sup dat : Bool) (la : Word) (v : Word) : EncodedLength.Statement (.lwrite32 sup dat la v) :=
  encodedLength_of rfl rfl

theorem EncodedLength.pread8 (pa : Word) : EncodedLength.Statement (.pread8 pa) :=
  encodedLength_of rfl rfl

theorem EncodedLength.pread16 (pa : Word) : EncodedLength.Statement (.pread16 pa) :=
  encodedLength_of rfl rfl

theorem EncodedLength.pread32 (pa : Word) : EncodedLength.Statement (.pread32 pa) :=
  encodedLength_of rfl rfl

theorem EncodedLength.pwrite8 (pa : Word) (v : Byte) : EncodedLength.Statement (.pwrite8 pa v) :=
  encodedLength_of rfl rfl

theorem EncodedLength.pwrite16 (pa : Word) (v : Half) : EncodedLength.Statement (.pwrite16 pa v) :=
  encodedLength_of rfl rfl

theorem EncodedLength.pwrite32 (pa : Word) (v : Word) : EncodedLength.Statement (.pwrite32 pa v) :=
  encodedLength_of rfl rfl

theorem EncodedLength.toHost (pa : Word) : EncodedLength.Statement (.toHost pa) :=
  encodedLength_of rfl rfl

theorem EncodedLength.boundsCheck (pa size : Word) : EncodedLength.Statement (.boundsCheck pa size) :=
  encodedLength_of rfl rfl

theorem EncodedLength.map (bank : BankRef) (start count : Word) : EncodedLength.Statement (.map bank start count) :=
  encodedLength_of rfl rfl

theorem EncodedLength.regionName (pa : Word) : EncodedLength.Statement (.regionName pa) :=
  encodedLength_of rfl rfl

theorem EncodedLength.queryDecoded : EncodedLength.Statement .queryDecoded :=
  encodedLength_of rfl rfl

theorem EncodedLength.snapSave : EncodedLength.Statement .snapSave :=
  encodedLength_of rfl rfl

theorem EncodedLength.snapRestore (view : List Word) : EncodedLength.Statement (.snapRestore view) :=
  fun h => ⟨_, view, .snapRestore, rfl, by simp [headerPlain], by simpa [Instr.wellFormed, viewLengthOk, opOperands] using h⟩

theorem EncodedLength.mmuReset : EncodedLength.Statement .mmuReset :=
  encodedLength_of rfl rfl

theorem EncodedLength.coldReset : EncodedLength.Statement .coldReset :=
  encodedLength_of rfl rfl

end Sys2Proof.Laws
end

