-- ==== Sys2Proof/Laws/Walk.lean ====
section
/-! SUPPORT. What a table walk can do to the state: every part of it keeps `FetchFrame`. -/

namespace Sys2Proof.Machine

theorem FetchFrame.refl (s : State) : FetchFrame s s :=
  { regs := rfl, atc := rfl, atcNext := rfl, slots := rfl, stores := rfl, refused := rfl, params := rfl
    loader := rfl, bootOverlay := rfl, diagPc := rfl, inbox := rfl, reply := rfl
    io := ⟨[], by simp⟩, log := ⟨[], by simp⟩, draws := Nat.le_refl _ }

/-- Two appended stretches of events of one kind are one stretch of them. -/
theorem appended_trans {α : Type} {p : α → Bool} {a b c : List α} (h : ∃ l, b = a ++ l ∧ ∀ e ∈ l, p e = true)
    (g : ∃ l, c = b ++ l ∧ ∀ e ∈ l, p e = true) : ∃ l, c = a ++ l ∧ ∀ e ∈ l, p e = true := by
  obtain ⟨l, rfl, hl⟩ := h
  obtain ⟨m, rfl, hm⟩ := g
  refine ⟨l ++ m, by simp, fun e he => ?_⟩
  rcases List.mem_append.1 he with h | h
  · exact hl e h
  · exact hm e h

theorem FetchFrame.trans {a b c : State} (h : FetchFrame a b) (g : FetchFrame b c) : FetchFrame a c :=
  { regs := g.regs.trans h.regs, atc := g.atc.trans h.atc, atcNext := g.atcNext.trans h.atcNext
    slots := g.slots.trans h.slots, stores := g.stores.trans h.stores, refused := g.refused.trans h.refused
    params := g.params.trans h.params, loader := g.loader.trans h.loader
    bootOverlay := g.bootOverlay.trans h.bootOverlay, diagPc := g.diagPc.trans h.diagPc
    inbox := g.inbox.trans h.inbox, reply := g.reply.trans h.reply, io := appended_trans h.io g.io
    log := appended_trans h.log g.log, draws := Nat.le_trans h.draws g.draws }

variable {α β : Type}

/-- A sequence keeps the frame if both parts do. -/
theorem andThen_frame {s : State} {x : Ans α × State} {f : α → State → Ans β × State} (hx : FetchFrame s x.2)
    (hf : ∀ a, x.1 = .ok a → FetchFrame x.2 (f a x.2).2) : FetchFrame s (andThen x f).2 :=
  andThen_keeps (R := FetchFrame) (fun _ _ _ h g => h.trans g) hx hf

/-- An I/O read of a Long keeps the frame. -/
theorem ioReadState_frame (pa : Word) (s : State) : FetchFrame s (ioReadState .long pa s) :=
  { FetchFrame.refl s with
    io := ⟨[_], rfl, by simp [isLongRead]⟩, draws := Nat.le_succ _ }

/-- A Long read keeps the frame. -/
theorem physRead_frame (pa : Word) (s : State) : FetchFrame s (physRead .long pa s).2 := by
  rw [physRead_state]
  split
  · exact ioReadState_frame pa s
  · exact .refl s

theorem fetchLong_frame (la : Word) (acc : Access) (level : Level) (a : Word) (s : State) :
    FetchFrame s (fetchLong la acc level a s).2 := by
  simpa [fetchLong] using physRead_frame a s

theorem fetchDesc_frame (la : Word) (acc : Access) (level : Level) (a : Word) (size : DescSize) (pos : DescPos)
    (s : State) : FetchFrame s (fetchDesc la acc level a size pos s).2 := by
  refine andThen_frame (fetchLong_frame ..) fun d0 _ => ?_
  cases size
  · exact .refl _
  · exact andThen_frame (fetchLong_frame ..) fun _ _ => .refl _

/-- No limit, no check (R312). -/
@[simp] theorem limitCheck_noLimit (la : Word) (acc : Access) (level : Level) (idx a : Word) (s : State) :
    limitCheck la acc level idx noLimit a s = (.ok (), s) := by
  simp [limitCheck, limitViolated, noLimit]

/-- An index within its limit passes (R312). -/
theorem limitCheck_within {idx : Word} {lim : Limit} (h : WithinLimit lim.lower lim.limit idx) (la : Word)
    (acc : Access) (level : Level) (a : Word) (s : State) : limitCheck la acc level idx lim a s = (.ok (), s) := by
  have : limitViolated idx lim = false := by
    unfold WithinLimit at h
    cases hl : lim.lower <;> simp [hl] at h <;> simp [limitViolated, hl] <;> omega
  simp [limitCheck, this]

/-- DT is the low two bits of a descriptor (R130). -/
theorem descType_eq (d : Word) : descType d = (d &&& 3).toNat := by
  rw [descType, bitField, BitVec.extractLsb'_toNat, BitVec.toNat_and]
  simpa using (Nat.and_two_pow_sub_one_eq_mod d.toNat 2).symm

/-- A type as a number and as two bits. -/
theorem descType_eq_iff (d : Word) (n : Nat) (h : n < 4) : descType d = n ↔ d &&& 3 = BitVec.ofNat 32 n := by
  rw [descType_eq, BitVec.toNat_eq, BitVec.toNat_ofNat, Nat.mod_eq_of_lt (by omega : n < 2 ^ 32)]

/-- Decoding a short descriptor, by the table of R132: type 0 is invalid, any other is what the table says. -/
theorem decodeShort_eq (d : Word) (pos : DescPos) :
    decodeShort d pos = if d &&& 3 = 0 then .invalid else shortDescriptor d pos := by
  unfold decodeShort descOf shortDescriptor
  cases pos <;> simp only [shortPage, shortTable, sizeOfDt, descType_eq_iff d 0 (by decide),
    descType_eq_iff d 1 (by decide), descType_eq_iff d 2 (by decide), noLimit, BitVec.ofNat_eq_ofNat]

/-- Decoding a long descriptor, by the table of R133. -/
theorem decodeLong_eq (d0 d1 : Word) (pos : DescPos) :
    decodeLong d0 d1 pos = if d0 &&& 3 = 0 then .invalid else longDescriptor d0 d1 pos := by
  have hl : bitField d0 16 15 = rawField d0.toNat 16 15 := by
    simp [bitField, rawField, Nat.shiftRight_eq_div_pow]
  unfold decodeLong descOf longDescriptor
  cases pos <;> simp only [longPage, longTable, sizeOfDt, descType_eq_iff d0 0 (by decide),
    descType_eq_iff d0 1 (by decide), descType_eq_iff d0 2 (by decide), hl, BitVec.ofNat_eq_ofNat]

/-- A logged limit event keeps the frame (R312). -/
theorem limitLog_frame (level : Level) (idx : Word) (lim : Limit) (s : State) :
    FetchFrame s (s.log (.limitViolationLogged level idx lim.limit lim.lower s.diagPc)) :=
  { FetchFrame.refl s with log := ⟨[_], rfl, by simp [isLimitEvent]⟩ }

theorem limitCheck_frame (la : Word) (acc : Access) (level : Level) (idx : Word) (lim : Limit) (a : Word)
    (s : State) : FetchFrame s (limitCheck la acc level idx lim a s).2 := by
  unfold limitCheck
  split
  · split
    · exact .refl s
    · exact limitLog_frame level idx lim s
    · exact .refl s
  · exact .refl s

theorem supervisorCheck_frame (la : Word) (acc : Access) (level : Level) (d : Desc) (a : Word) (s : State) :
    FetchFrame s (supervisorCheck la acc level d a s).2 := by
  unfold supervisorCheck
  split <;> exact .refl s

theorem fetchCheck_frame (la : Word) (acc : Access) (at' : WalkAt) (idx : Word) (pos : DescPos) (level : Level)
    (s : State) : FetchFrame s (fetchCheck la acc at' idx pos level s).2 := by
  refine andThen_frame (limitCheck_frame ..) fun _ _ => andThen_frame (fetchDesc_frame ..) fun d _ => ?_
  split
  · exact .refl _
  · exact andThen_frame (supervisorCheck_frame ..) fun _ _ => .refl _

theorem fetchIndirect_frame (la : Word) (acc : Access) (ia : Word) (size : DescSize) (s : State) :
    FetchFrame s (fetchIndirect la acc ia size s).2 := by
  refine andThen_frame (fetchDesc_frame ..) fun d _ => ?_
  cases d
  case page p => exact andThen_frame (supervisorCheck_frame ..) fun _ _ => .refl _
  all_goals exact .refl _

theorem walkLast_frame (la : Word) (acc : Access) (l : TableLevel) (at' : WalkAt) (s : State) :
    FetchFrame s (walkLast la acc l at' s).2 := by
  refine andThen_frame (fetchCheck_frame ..) fun d _ => ?_
  cases d
  case indirect ia size => exact andThen_frame (fetchIndirect_frame ..) fun _ _ => .refl _
  all_goals exact .refl _

theorem walkLevels_frame (la : Word) (acc : Access) (ls : List TableLevel) (at' : WalkAt) (s : State) :
    FetchFrame s (walkLevels la acc ls at' s).2 := by
  induction ls generalizing at' s with
  | nil => exact .refl s
  | cons l ls ih =>
    unfold walkLevels
    split
    · exact walkLast_frame ..
    · refine andThen_frame (fetchCheck_frame ..) fun d _ => ?_
      cases d
      case table t => exact ih ..
      all_goals exact .refl _

theorem walkTables_frame (la : Word) (acc : Access) (at' : WalkAt) (s : State) :
    FetchFrame s (walkTables la acc at' s).2 := by
  unfold walkTables
  split
  · exact walkLevels_frame ..
  · refine andThen_frame (fetchCheck_frame ..) fun d _ => ?_
    cases d
    case table t => exact walkLevels_frame ..
    all_goals exact .refl _

/-- A walk changes the two histories and nothing else (R300). -/
theorem walk_frame (la : Word) (acc : Access) (s : State) : FetchFrame s (walk la acc s).2 := by
  unfold walk
  dsimp only
  split
  · exact .refl s
  · split
    · exact .refl s
    · exact walkTables_frame ..

/-- WALK, refused or not, changes the two histories and nothing else before its end (R320). -/
theorem walkCommand_frame (acc : Access) (la : Word) (s : State) : FetchFrame s (walkCommand acc la s).2 := by
  unfold walkCommand
  split
  · exact .refl s
  · simpa using walk_frame la acc s

end Sys2Proof.Machine
end

