-- ==== Sys2Proof/Laws/Pipeline.lean ====
section
/-! SUPPORT. What a translation can do. -/

namespace Sys2Proof.Machine

/-- What `locate` can answer and leave (R401, R402): with no walk, the state as it was; else what the walk left. -/
theorem locate_cases (la : Word) (acc : Access) (s : State) :
    (∃ t, t.via ≠ .walk ∧ locate la acc s = (.ok t, s)) ∨
    (∃ f, locate la acc s = (.fault f, s)) ∨ locate la acc s = (.refuse .tcUnmodelled, s) ∨
    locate la acc s = mapAns walkTranslation (walk la acc s) := by
  unfold locate
  split
  · rename_i t h
    refine .inl ⟨t, ?_, rfl⟩
    unfold ttResolve ttOutcome at h
    split at h
    · split at h <;> simp at h
      rw [← h]; simp
    · rename_i o ho
      split at h <;> simp at h
      rw [← h]; simp
  · exact .inr (.inl ⟨_, rfl⟩)
  · split
    · exact .inl ⟨identityTranslation la, by simp [identityTranslation], rfl⟩
    · split
      · exact .inr (.inr (.inl rfl))
      · unfold locatePaged
        split
        · exact .inl ⟨_, by simp [atcCompose], rfl⟩
        · exact .inr (.inr (.inr rfl))

/-- `locate` leaves the state as it was, or what a walk left: the ATC is not written. -/
theorem locate_state (la : Word) (acc : Access) (s : State) :
    (locate la acc s).2 = s ∨ (locate la acc s).2 = (walk la acc s).2 := by
  rcases locate_cases la acc s with ⟨t, -, h⟩ | ⟨f, h⟩ | h | h <;> rw [h]
  · exact .inl rfl
  · exact .inl rfl
  · exact .inl rfl
  · exact .inr (by simp)

/-- `locate` keeps the frame of a walk (R300). -/
theorem locate_frame (la : Word) (acc : Access) (s : State) : FetchFrame s (locate la acc s).2 := by
  rcases locate_state la acc s with h | h <;> rw [h]
  · exact .refl s
  · exact walk_frame la acc s

/-- What a translation can leave: the state as it was, the state a walk left, or that state with one insertion
(R401, R402). -/
theorem translate_state (la : Word) (acc : Access) (s : State) :
    (translate la acc s).2 = s ∨ (translate la acc s).2 = (walk la acc s).2 ∨
    ∃ r, walk la acc s = (.ok r, (walk la acc s).2) ∧
      (translate la acc s).2 = atcInsert la (functionCode acc) r.pa r.ci r.wp r.m (walk la acc s).2 := by
  unfold translate
  rcases locate_cases la acc s with ⟨t, ht, h⟩ | ⟨f, h⟩ | h | h <;> rw [h]
  · exact .inl (by simp [fillAtc, ht])
  · exact .inl rfl
  · exact .inl rfl
  · rcases walk la acc s with ⟨_ | _ | _, t⟩
    · exact .inr (.inr ⟨_, rfl, rfl⟩)
    · exact .inr (.inl rfl)
    · exact .inr (.inl rfl)

/-- A translation touches no register, no table, no store and no input (R453). -/
theorem translate_frame (la : Word) (acc : Access) (s : State) :
    (translate la acc s).2.regs = s.regs ∧ (translate la acc s).2.slots = s.slots
      ∧ (translate la acc s).2.stores = s.stores ∧ (translate la acc s).2.refused = s.refused
      ∧ (translate la acc s).2.params = s.params ∧ (translate la acc s).2.loader = s.loader
      ∧ (translate la acc s).2.bootOverlay = s.bootOverlay ∧ (translate la acc s).2.diagPc = s.diagPc
      ∧ (translate la acc s).2.inbox = s.inbox := by
  have w := walk_frame la acc s
  rcases translate_state la acc s with h | h | ⟨r, -, h⟩ <;> rw [h] <;>
    simp [w.regs, w.slots, w.stores, w.refused, w.params, w.loader, w.bootOverlay, w.diagPc, w.inbox]

@[simp] theorem translate_regs (la : Word) (acc : Access) (s : State) : (translate la acc s).2.regs = s.regs :=
  (translate_frame la acc s).1
@[simp] theorem translate_slots (la : Word) (acc : Access) (s : State) : (translate la acc s).2.slots = s.slots :=
  (translate_frame la acc s).2.1
@[simp] theorem translate_stores (la : Word) (acc : Access) (s : State) :
    (translate la acc s).2.stores = s.stores := (translate_frame la acc s).2.2.1
@[simp] theorem translate_params (la : Word) (acc : Access) (s : State) :
    (translate la acc s).2.params = s.params := (translate_frame la acc s).2.2.2.2.1

/-- The translation that `translate` answers is the one `locate` found, with the insertion after it. -/
theorem translate_of_locate {la : Word} {acc : Access} {s u : State} {t : Translation}
    (h : locate la acc s = (.ok t, u)) : translate la acc s = (.ok t, fillAtc la acc t u) := by
  rw [translate, h]; rfl

/-- An insertion changes nothing that decides whether a physical access is refused. -/
theorem fillAtc_frame (la : Word) (acc : Access) (t : Translation) (s : State) :
    (fillAtc la acc t s).slots = s.slots ∧ (fillAtc la acc t s).stores = s.stores
      ∧ (fillAtc la acc t s).params = s.params ∧ (fillAtc la acc t s).bootOverlay = s.bootOverlay := by
  unfold fillAtc
  split <;> simp

/-- Whether a read is refused depends on the table, the stores, the parameters and the overlay alone. -/
theorem physRead_refuse_congr {w : Width} {pa : Word} {s u : State} (hs : u.slots = s.slots)
    (hm : u.stores = s.stores) (hp : u.params = s.params) (ho : u.bootOverlay = s.bootOverlay) (r : RefuseReason) :
    (physRead w pa u).1 = .refuse r ↔ (physRead w pa s).1 = .refuse r := by
  unfold physRead bankRead
  rw [hs]
  cases bankAt s.slots (slotOf pa) with
  | ram b =>
    dsimp only [ramRead]
    rw [hm, hp]
    cases s.params.ram[b]? <;> cases s.stores.ram[b]? <;> rfl
  | rom =>
    dsimp only [romRead, overlayRead, ramRead]
    rw [hs, hm, hp, ho]
    split
    · cases bankAt s.slots (slotOf (s.params.overlayRamBase + pa)) with
      | ram b => dsimp only; cases s.params.ram[b]? <;> cases s.stores.ram[b]? <;> rfl
      | _ => rfl
    · rfl
  | videoMono => dsimp only [vmonoRead]; rw [hm, hp]
  | videoColor => dsimp only [vcolorRead]; rw [hm, hp]
  | empty => cases w <;> simp [emptyRead]
  | busErr => simp
  | io =>
    dsimp only [ioRead]
    split <;> split <;> simp

/-- Whether a write is refused depends on the table, the stores and the parameters alone. -/
theorem physWrite_refuse_congr {w : Width} {pa v : Word} {s u : State} (hs : u.slots = s.slots)
    (hm : u.stores = s.stores) (hp : u.params = s.params) (r : RefuseReason) :
    (physWrite w pa v u).1 = .refuse r ↔ (physWrite w pa v s).1 = .refuse r := by
  have hc : ∀ (put put' : Memory → State) (x : Ans Memory),
      (commitStore u put x).1 = .refuse r ↔ (commitStore s put' x).1 = .refuse r := by
    intro put put' x
    cases x <;> simp [commitStore]
  unfold physWrite bankWrite
  rw [hs]
  cases bankAt s.slots (slotOf pa) with
  | ram b =>
    dsimp only [ramWrite]
    rw [hm, hp]
    cases s.params.ram[b]? <;> cases s.stores.ram[b]? <;> first | exact hc .. | simp
  | rom => simp [romWrite]
  | videoMono => dsimp only [vmonoWrite]; rw [hm, hp]; exact hc ..
  | videoColor => dsimp only [vcolorWrite]; rw [hm, hp]; exact hc ..
  | empty =>
    cases w <;> dsimp only [emptyWrite]
    · simp
    · simp
    · rw [hp]
      cases emptyOwnerAt s.params (slotOf pa) with
      | none => simp
      | some b =>
        dsimp only [emptyRedirect]
        rw [hm, hp]
        cases s.params.ram[b]? <;> cases s.stores.ram[b]? <;> dsimp only <;> first | exact Iff.rfl | (split <;> simp)
  | busErr => simp
  | io =>
    dsimp only [ioWrite]
    split <;> split <;> simp

section
variable {α : Type} (la : Word) (acc : Access) (t : Translation) (f : State → Ans α × State) (s : State)

/-- A refused physical stage: the state before it, with no insertion (R461). -/
theorem physicalStage_refuse {r : RefuseReason} (h : (f s).1 = .refuse r) :
    physicalStage la acc t f s = (.refuse r, s) := by
  unfold physicalStage; rw [h]

/-- Any other physical stage runs after the insertion (R453). -/
theorem physicalStage_run (h : ∀ r, (f s).1 ≠ .refuse r) :
    physicalStage la acc t f s = mapFault (withLogical la acc) (f (fillAtc la acc t s)) := by
  unfold physicalStage
  split
  · rename_i r hr; exact absurd hr (h r)
  · rfl
  · rfl

/-- The two ways a physical stage ends. -/
theorem physicalStage_cases :
    (∃ r, (f s).1 = .refuse r ∧ physicalStage la acc t f s = (.refuse r, s)) ∨
    ((∀ r, (f s).1 ≠ .refuse r) ∧
      physicalStage la acc t f s = mapFault (withLogical la acc) (f (fillAtc la acc t s))) := by
  by_cases h : ∃ r, (f s).1 = .refuse r
  · obtain ⟨r, hr⟩ := h
    exact .inl ⟨r, hr, physicalStage_refuse la acc t f s hr⟩
  · refine .inr ⟨fun r hr => h ⟨r, hr⟩, physicalStage_run la acc t f s fun r hr => h ⟨r, hr⟩⟩

end

/-- A logical read leaves the state as it was, what `locate` leaves, what a translation leaves, or that with one I/O
read after it (R405). -/
theorem logicalRead_state (w : Width) (la : Word) (acc : Access) (s : State) :
    (logicalRead w la acc s).2 = s ∨ (logicalRead w la acc s).2 = (locate la acc s).2 ∨
    (logicalRead w la acc s).2 = (translate la acc s).2 ∨
    ∃ pa, (logicalRead w la acc s).2 = ioReadState w pa (translate la acc s).2 := by
  unfold logicalRead
  split
  · exact .inl rfl
  · rcases h : locate la acc s with ⟨t | _ | _, u⟩
    · rw [translate_of_locate h]
      simp only [andThen_ok]
      rcases physicalStage_cases la acc t (physRead w t.pa) u with ⟨r, -, g⟩ | ⟨-, g⟩ <;> rw [g]
      · exact .inr (.inl rfl)
      · simp only [mapFault_snd, physRead_state]
        split
        · exact .inr (.inr (.inr ⟨_, rfl⟩))
        · exact .inr (.inr (.inl rfl))
    · exact .inr (.inl rfl)
    · exact .inr (.inl rfl)

/-- A logical write leaves the state as it was, what `locate` leaves, or what a translation leaves with one physical
write after it (R408). -/
theorem logicalWrite_state (w : Width) (la : Word) (acc : Access) (v : Word) (s : State) :
    (logicalWrite w la acc v s).2 = s ∨ (logicalWrite w la acc v s).2 = (locate la acc s).2 ∨
    ∃ t u, translate la acc s = (.ok t, u) ∧ (logicalWrite w la acc v s).2 = (physWrite w t.pa v u).2 := by
  unfold logicalWrite
  split
  · exact .inl rfl
  · rcases h : locate la acc s with ⟨t | _ | _, u⟩
    · simp only [andThen_ok]
      rcases physicalStage_cases la acc t (physStore w t.pa v) u with ⟨r, -, g⟩ | ⟨-, g⟩ <;> rw [g]
      · exact .inr (.inl rfl)
      · exact .inr (.inr ⟨t, _, translate_of_locate h, by simp [physStore]⟩)
    · exact .inr (.inl rfl)
    · exact .inr (.inl rfl)

end Sys2Proof.Machine
end

