-- ==== Sys2Proof/Machine/Pseudo.lean ====
section
/-! DEFINITION. The CPU's MMU instructions as block commands (`30_encoding.md` rule R167). The CPU core issues these
expansions; the block only receives the commands. PTEST and PLOAD have no expansion. -/

namespace Sys2Proof.Machine

/-- The CPU instructions that expand into block commands (R167). -/
inductive CpuMmuOp where
  | pmoveToTc (v : Word)
  | pmoveToSrp (v : Quad)
  | pmoveToCrp (v : Quad)
  | pmovefdToTc (v : Word)
  | pmovefdToSrp (v : Quad)
  | pmovefdToCrp (v : Quad)
  | pmoveToTt0 (v : Word)
  | pmoveToTt1 (v : Word)
  | pmoveToMmusr (v : Half)
  | pmoveFromTc
  | pmoveFromSrp
  | pmoveFromCrp
  | pmoveFromTt0
  | pmoveFromTt1
  | pmoveFromMmusr
  | pflusha
  | pflush (fc mask : BitVec 3)
  | pflushPage (fc mask : BitVec 3) (la : Word)
  deriving DecidableEq, Repr

/-- Every `f` in 0..7 with `((f ^ fc) & mask) = 0` (R167). -/
def matchingCodes (fc mask : BitVec 3) : List (BitVec 3) :=
  ([0, 1, 2, 3, 4, 5, 6, 7] : List (BitVec 3)).filter fun f => (f ^^^ fc) &&& mask = 0

/-- The commands of a CPU MMU instruction, in order (R167). -/
def expandCpuOp : CpuMmuOp → List Instr
  | .pmoveToTc v => [.wrTc v, .flushAll]
  | .pmoveToSrp v => [.wrSrp v, .flushAll]
  | .pmoveToCrp v => [.wrCrp v, .flushAll]
  | .pmovefdToTc v => [.wrTc v]
  | .pmovefdToSrp v => [.wrSrp v]
  | .pmovefdToCrp v => [.wrCrp v]
  | .pmoveToTt0 v => [.wrTt0 v]
  | .pmoveToTt1 v => [.wrTt1 v]
  | .pmoveToMmusr v => [.wrMmusr v]
  | .pmoveFromTc => [.rdTc]
  | .pmoveFromSrp => [.rdSrp]
  | .pmoveFromCrp => [.rdCrp]
  | .pmoveFromTt0 => [.rdTt0]
  | .pmoveFromTt1 => [.rdTt1]
  | .pmoveFromMmusr => [.rdMmusr]
  | .pflusha => [.flushAll]
  | .pflush fc mask => (matchingCodes fc mask).map fun f => .flushFc f
  | .pflushPage fc mask la => (matchingCodes fc mask).map fun f => .flushPage f la

end Sys2Proof.Machine
end

