-- ==== Sys2Proof/Tests/Slice0.lean ====
section
/-! SUPPORT. Tests of the model. Expected values are those of `spec/95_test_vectors.md` (the vector is named in the
test's comment) or of the encoding tables of `spec/30_encoding.md`; none was taken from the model. The theorems
`witness_<Name>` show, for each statement of `Obligations.lean` that has hypotheses, states and operands that meet them
together, clause by clause. -/

namespace Sys2Proof.Tests

open Sys2Proof Sys2Proof.Machine

/-! ### Helpers -/

/-- The state after a command (every command of the block ends in a next state). -/
def after (i : Instr) (s : State) : State :=
  match exec i s with
  | .next t => t
  | .fault _ => s
  | .refused _ => s

/-- What a command answers. -/
def replyTo (i : Instr) (s : State) : Reply := (after i s).reply

theorem deliver_isNext (c : FaultRecord → Option Word) (x : Ans Result × State) : ∃ t, deliver c x = .next t := by
  obtain ⟨_ | _ | _, s⟩ := x <;> exact ⟨_, rfl⟩

theorem exec_isNext (i : Instr) (s : State) : ∃ t, exec i s = .next t := by
  cases i <;> first | exact ⟨_, rfl⟩ | exact deliver_isNext _ _

theorem exec_after (i : Instr) (s : State) : exec i s = .next (after i s) := by
  obtain ⟨t, h⟩ := exec_isNext i s
  simp [after, h]

/-- The state right after reset: E0. -/
def e0 : State := State.reset

/-- RAM bank 0 of E0 with the tables T. -/
def tableRam : Memory :=
  [(0x010000, 0x04011002), (0x010004, 0x04200001), (0x01000C, 0x04012003), (0x011000, 0x04100001),
   (0x011004, 0x04101055), (0x011008, 0x04013002), (0x011010, 0x80000001), (0x012000, 0x00000001),
   (0x012004, 0x04103000), (0x012008, 0x00000101), (0x01200C, 0x04104000), (0x013000, 0x04102001),
   (0x014004, 0x04010002), (0x014008, 0x04300001)].foldl
    (fun m c => writeBytes m c.1 (splitBytes .long c.2)) { seed := none, cells := [] }

/-- E0 with the tables T and the TC, SRP and CRP given. -/
def paged (tc : Word) (srp crp : Quad) : State :=
  { e0 with
    stores := { e0.stores with ram := [tableRam] }
    regs := { registersAtReset srp crp 0 with tcRaw := tc, tc := decodeTc tc } }

/-- The tables T with a table descriptor in two long words (LIMIT 2, upper; DT 3) and an indirect descriptor of DT 3 at
0x04016000. -/
def longRam : Memory :=
  [(0x016000, 0x00020003), (0x016004, 0x04012000), (0x016008, 0x0401200B)].foldl
    (fun m c => writeBytes m c.1 (splitBytes .long c.2)) tableRam

/-- `paged`, over `longRam`. -/
def pagedLong (tc : Word) (crp : Quad) : State :=
  { paged tc 0 crp with stores := { e0.stores with ram := [longRam] } }

/-- A page by the root pointer, whose physical address the boot overlay redirects to a slot that is no RAM. -/
def romPage : State :=
  { paged 0x80C0AA00 0 0x0000000100000000 with
    params := { e0.params with overlayRamBase := 0x10000000 }
    bootOverlay := true }

/-- S_T. -/
def sT : State := paged 0x80C0AA00 0 0x7FFF000204010000

/-- A state with a window in TT0. -/
def withTt0 (v : Word) (s : State) : State := after (.wrTt0 v) s

/-- The accesses of R166. -/
def udr : Access := ⟨false, true, false⟩
def udw : Access := ⟨false, true, true⟩
def upr : Access := ⟨false, false, false⟩
def sdr : Access := ⟨true, true, false⟩
def spr : Access := ⟨true, false, false⟩

/-- S_T after V-A1, the walk of 0x123 by a user data read: one ATC entry. -/
def sA : State := after (.translate udr 0x123) sT

/-- A view of 54 words. -/
def view54 (l : List Word) : List Word := l ++ List.replicate (54 - l.length) 0

/-- V-S4's view. -/
def viewS4 : List Word := view54 [1, 0x80C0AA00, 0, 0, 0x7FFF0002, 0x04010000, 0, 0, 0, 0x16, 3, 0x04100000]

/-! ### WellFormed refuses ill-formed terms -/

theorem test_wellFormed_refuses_bank_without_code : (Instr.map (.ram 0xFFFFFF00) 0 0).wellFormed = false := by decide
theorem test_wellFormed_takes_the_last_bank_with_a_code : (Instr.map (.ram 0xFFFFFEFF) 0 0).wellFormed = true := by
  decide
theorem test_wellFormed_refuses_short_view : (Instr.snapRestore (List.replicate 53 0)).wellFormed = false := by decide
theorem test_wellFormed_takes_full_view : (Instr.snapRestore (List.replicate 54 0)).wellFormed = true := by decide

/-! ### Decoding: words written out from R160 to R165, one for every constructor -/

/-- OP 0x10 to 0x15. V-E7 for WR_CRP. -/
theorem test_decode_register_writes :
    decode [0x00000010, 0x80C0AA00] = .instr (.wrTc 0x80C0AA00)
    ∧ decode [0x00000011, 0x7FFF0002, 0x00002000] = .instr (.wrSrp 0x7FFF000200002000)
    ∧ decode [0x00000012, 0x80010003, 0x0010000F] = .instr (.wrCrp 0x800100030010000F)
    ∧ decode [0x00000013, 0xFF008307] = .instr (.wrTt0 0xFF008307)
    ∧ decode [0x00000014, 0x000F8000] = .instr (.wrTt1 0x000F8000)
    ∧ decode [0x00000015, 0x00008000] = .instr (.wrMmusr 0x8000) := by decide +kernel

/-- OP 0x18 to 0x1D. -/
theorem test_decode_register_reads :
    decode [0x18] = .instr .rdTc ∧ decode [0x19] = .instr .rdSrp ∧ decode [0x1A] = .instr .rdCrp
    ∧ decode [0x1B] = .instr .rdTt0 ∧ decode [0x1C] = .instr .rdTt1 ∧ decode [0x1D] = .instr .rdMmusr := by
  decide +kernel

/-- OP 0x20 to 0x24, with S bit 8, D bit 9, WR bit 10. V-E1, V-E22 and L1.3. -/
theorem test_decode_translation :
    decode [0x00000220, 0x00000123] = .instr (.translate udr 0x123)
    ∧ decode [0x00000620, 0xFF001234] = .instr (.translate udw 0xFF001234)
    ∧ decode [0x00000621, 0xFF001234] = .instr (.tt0Match udw 0xFF001234)
    ∧ decode [0x00000122, 0x0ABCDEF0] = .instr (.tt1Match spr 0x0ABCDEF0)
    ∧ decode [0x00000223, 0x00456789] = .instr (.walk udr 0x00456789)
    ∧ decode [0x00000324, 0x00000123] = .instr (.atcLookup sdr 0x123) := by decide +kernel

/-- OP 0x25 and 0x28 to 0x2A. V-E4, V-E5, V-E6, V-A22. -/
theorem test_decode_atc :
    decode [0x00008325, 0x12345678, 0x0ABCD999] = .instr (.atcInsert true true false true false 0x12345678 0x0ABCD999)
    ∧ decode [0x0001C225, 0x00007000, 0x04107000] = .instr (.atcInsert false true true true true 0x7000 0x04107000)
    ∧ decode [0x00000028] = .instr .flushAll ∧ decode [0x00002829] = .instr (.flushFc 5)
    ∧ decode [0x0000082A, 0x00000FFC] = .instr (.flushPage 1 0xFFC) := by decide +kernel

/-- OP 0x30 to 0x36. V-E2, V-E3, V-E14, P1. -/
theorem test_decode_logical :
    decode [0x00000230, 0x00456789] = .instr (.lread8 false true 0x00456789)
    ∧ decode [0x00000031, 0x00000124] = .instr (.lread16 false false 0x124)
    ∧ decode [0x00000332, 0x04801234] = .instr (.lread32 true true 0x04801234)
    ∧ decode [0x00000434, 0x00001ABC, 0x00000077] = .instr (.lwrite8 false false 0x1ABC 0x77)
    ∧ decode [0x00000635, 0x00002010, 0x0000A55A] = .instr (.lwrite16 false true 0x2010 0xA55A)
    ∧ decode [0x00000736, 0x04801000, 0xCAFEF00D] = .instr (.lwrite32 true true 0x04801000 0xCAFEF00D) := by
  decide +kernel

/-- OP 0x40 to 0x4A. V-E8, P2. -/
theorem test_decode_physical :
    decode [0x40, 0x04000102] = .instr (.pread8 0x04000102) ∧ decode [0x41, 0x04801000] = .instr (.pread16 0x04801000)
    ∧ decode [0x42, 0x04001000] = .instr (.pread32 0x04001000)
    ∧ decode [0x44, 0x0B000005, 0xFF] = .instr (.pwrite8 0x0B000005 0xFF)
    ∧ decode [0x45, 0x03050002, 0xBEEF] = .instr (.pwrite16 0x03050002 0xBEEF)
    ∧ decode [0x46, 0x04801000, 0xCAFEF00D] = .instr (.pwrite32 0x04801000 0xCAFEF00D)
    ∧ decode [0x48, 0x04001000] = .instr (.toHost 0x04001000)
    ∧ decode [0x49, 0x04000000, 0x00800000] = .instr (.boundsCheck 0x04000000 0x00800000)
    ∧ decode [0x4A, 0x05, 0x300, 0x10] = .instr (.map .io 0x300 0x10)
    ∧ decode [0x4A, 0x100, 0x600, 0x80] = .instr (.map (.ram 0) 0x600 0x80) := by decide +kernel

/-- OP 0x50 to 0x71. -/
theorem test_decode_queries_snapshot_reset :
    decode [0x50, 0x03050000] = .instr (.regionName 0x03050000) ∧ decode [0x51] = .instr .queryDecoded
    ∧ decode [0x60] = .instr .snapSave ∧ decode (0x61 :: viewS4) = .instr (.snapRestore viewS4)
    ∧ decode [0x70] = .instr .mmuReset ∧ decode [0x71] = .instr .coldReset := by decide +kernel

/-- V-E9 to V-E21 and a call of the wrong length: refused, each for its own reason. -/
theorem test_decode_rejects :
    decode [0] = .reject .unknownOpcode ∧ decode [0x33, 0] = .reject .unknownOpcode
    ∧ decode [0x00020020, 0] = .reject .reservedBits ∧ decode [0x110, 0] = .reject .unusedBits
    ∧ decode [0x732, 0] = .reject .directionMismatch ∧ decode [0x34, 0, 0] = .reject .directionMismatch
    ∧ decode [0x44, 0, 0x100] = .reject .valueTooWide ∧ decode [0x15, 0x10000] = .reject .valueTooWide
    ∧ decode [0x4A, 6, 0, 1] = .reject .badBank ∧ decode [0xC29] = .reject .unusedBits
    ∧ decode [0x4220, 0] = .reject .unusedBits ∧ decode [0x10] = .reject .wrongLength
    ∧ decode [0x61, 1] = .reject .viewLength ∧ decode [0x161, 1] = .reject .unusedBits := by decide +kernel

/-- The numbering of the opcode table: the header is bits 31:0, operand 1 bits 63:32. -/
theorem test_decodeTableWord : decodeTableWord 64 0x80C0AA0000000010 = some (.wrTc 0x80C0AA00)
    ∧ decodeTableWord 32 0x61 = some (.snapRestore (List.replicate 54 0)) := by decide +kernel

/-! ### One step each, from the vectors -/

/-- V-RG1, V-RG7: WR_TC decodes and logs. -/
theorem test_wrTc_stores : (after (.wrTc 0x80C0AA00) e0).regs.tcRaw = 0x80C0AA00
    ∧ (after (.wrTc 0x80C0AA00) e0).regs.tc.table = ⟨⟨0xFFC00000, 22⟩, ⟨0x003FF000, 12⟩, ⟨0, 12⟩, ⟨0, 12⟩⟩
    ∧ (after (.wrTc 0x80C0AA00) e0).diagLog = [.decodedRegister .tc 0x80C0AA00 0] := by decide +kernel
theorem test_wrTc_warns : (after (.wrTc 0x80CFFF00) e0).regs.tc.tcUnmodelled = true
    ∧ (after (.wrTc 0x80CFFF00) e0).regs.tc.table = ⟨⟨0x0001FFFC, 2⟩, ⟨0, 0⟩, ⟨0, 0⟩, ⟨0, 0⟩⟩
    ∧ (after (.wrTc 0x80CFFF00) e0).diagLog
      = [.decodedRegister .tc 0x80CFFF00 0, .configWarning 0x80CFFF00 57 0] := by decide +kernel
/-- V-RG3, V-RG4, V-RG5: the decoded TC. -/
theorem test_decodeTc_vectors : (decodeTc 0x80C4A600).table.a = ⟨0x0FFC0000, 18⟩
    ∧ (decodeTc 0x80C4A600).table.b = ⟨0x0003F000, 12⟩ ∧ (decodeTc 0x80C0A0A0).lastTableIndex = .c
    ∧ (decodeTc 0x80C0A0A0).present = ⟨true, false, true, false⟩ ∧ (decodeTc 0x80F00000).lastTableIndex = .a
    ∧ (decodeTc 0x80F00000).present = ⟨true, false, false, false⟩ ∧ (decodeTc 0x80F00000).sumOk = false
    ∧ (decodeTc 0x80F00000).tcUnmodelled = false := by decide +kernel
/-- V-RG10 to V-RG12: the root pointers. -/
theorem test_wrCrp : (after (.wrCrp 0x800100030010000F) e0).regs.crp = ⟨0x00100000, 3, 1, true⟩
    ∧ (after (.wrCrp 0x800100030010000F) e0).regs.crpRaw = 0x800100030010000F := by decide +kernel
theorem test_wrSrp : (after (.wrSrp 0x0003FFFFFFFFFFFF) e0).regs.srp = ⟨0xFFFFFFF0, 3, 3, false⟩
    ∧ (after (.wrSrp 0x0003FFFFFFFFFFFF) e0).regs.crpRaw = 0 := by decide +kernel
/-- V-RG13 to V-RG16: the windows. -/
theorem test_wrTt0 : (after (.wrTt0 0xFF008043) e0).regs.tt0
    = ⟨true, false, false, false, 0xFF000000, 0xFF000000, 4, 4⟩ := by decide +kernel
theorem test_wrTt1 : (after (.wrTt1 0x000F8400) e0).regs.tt1
    = ⟨true, true, false, false, 0, 0xF0000000, 0, 7⟩ := by decide +kernel
/-- V-RG17. -/
theorem test_wrMmusr : (after (.wrMmusr 0x8000) e0).regs.mmusrRaw = 0x8000
    ∧ (after (.wrMmusr 0x8000) e0).diagLog = [.decodedRegister .mmusr 0x8000 0] := by decide +kernel
theorem test_rdMmusr : replyTo .rdMmusr (after (.wrMmusr 0x8000) e0) = .ok (.value .long 0x00008000) := by
  decide +kernel
/-- V-RG9 to V-RG11, V-RG18 and S_T: the reads. -/
theorem test_register_reads : replyTo .rdTc (after (.wrTc 0xFC000000) e0) = .ok (.value .long 0xFC000000)
    ∧ replyTo .rdCrp sT = .ok (.value64 0x7FFF000204010000)
    ∧ replyTo .rdSrp (after (.wrSrp 0x7FFF000200002000) e0) = .ok (.value64 0x7FFF000200002000)
    ∧ replyTo .rdTt0 (withTt0 0xFF008307 e0) = .ok (.value .long 0xFF008307)
    ∧ replyTo .rdTt1 e0 = .ok (.value .long 0) := by decide +kernel

/-- V-T1, V-T2, V-T4, V-T11: the window codes. -/
theorem test_tt0Match : replyTo (.tt0Match udw 0xFF001234) (withTt0 0xFF008307 e0) = .ok (.code 3)
    ∧ replyTo (.tt0Match udr 0xFF001234) (withTt0 0xFF008307 e0) = .ok (.code 1)
    ∧ replyTo (.tt0Match udr 0xFE001234) (withTt0 0xFF008307 e0) = .ok (.code 0)
    ∧ replyTo (.tt0Match udr 0xFF000000) (withTt0 0xFF008107 e0) = .ok (.code 2) := by decide +kernel
/-- V-T9, V-T12, V-T13: the options. -/
theorem test_tt0Match_options :
    replyTo (.tt0Match udw 0xFF001234) (withTt0 0xFF008207 { e0 with params := { e0.params with ttRwmSense := .mc68030 } })
      = .ok (.code 3)
    ∧ replyTo (.tt0Match udr 0xFF000000) (withTt0 0xFF008043 { e0 with params := { e0.params with ttFcFilter := true } })
      = .ok (.code 0)
    ∧ replyTo (.tt0Match sdr 0xFF000000) (withTt0 0xFF008043 { e0 with params := { e0.params with ttFcFilter := true } })
      = .ok (.code 1) := by decide +kernel
/-- V-T5, V-T6. -/
theorem test_tt1Match : replyTo (.tt1Match spr 0x0ABCDEF0) (after (.wrTt1 0x000F8000) e0) = .ok (.code 1)
    ∧ replyTo (.tt1Match udw 0x10000000) (after (.wrTt1 0x000F8000) e0) = .ok (.code 0) := by decide +kernel

/-- V-W2, V-W3, V-W5, V-W8: walks that end. -/
theorem test_walk_results : replyTo (.walk udr 0x1ABC) sT = .ok (.walk ⟨0x04101ABC, true, true, true⟩)
    ∧ replyTo (.walk udr 0x2010) sT = .ok (.walk ⟨0x04102010, false, false, false⟩)
    ∧ replyTo (.walk udr 0x456789) sT = .ok (.walk ⟨0x04200789, false, false, false⟩)
    ∧ replyTo (.walk udr 0xC00040) sT = .ok (.walk ⟨0x04103040, false, false, false⟩)
    ∧ replyTo (.walk udr 0x12345678) (paged 0x80F00000 0 0x7FFF000204010000)
      = .ok (.walk ⟨0x04105678, false, false, false⟩)
    ∧ replyTo (.walk udr 0x40) (pagedLong 0x80C0AA00 0x7FFF000304016000)
      = .ok (.walk ⟨0x04103040, false, false, false⟩) := by decide +kernel
/-- V-W9, V-W15, V-W16, V-W20, V-W25: faults, the FC level and the remaining index bits; and, by R303, R309, R312 and
R313, the limit of a long table descriptor, the S bit of a long page and that of an indirect one. -/
theorem test_walk_faults : replyTo (.walk udr 0xC01040) sT
      = .fault (walkRecord sT .mmuSupervisorViolation 0xC01040 udr (.table .b) (some 0x04012008)) none
    ∧ replyTo (.walk sdr 0x123) (paged 0x81C0AA00 0 0x7FFF000204014000)
      = .fault (walkRecord sT .mmuInvalidDescriptor 0x123 sdr .fc (some 0x04014014)) none
    ∧ replyTo (.walk udr 0xC00040) { paged 0x80C0AA00 0 0x0002000204010000 with
        params := { e0.params with limitCheck := .fault } }
      = .fault (walkRecord sT .mmuLimitViolation 0xC00040 udr (.table .a) (some 0x0401000C)) none
    ∧ replyTo (.walk udr 0x123) (paged 0x80C0AA00 0 0)
      = .fault (walkRecord sT .mmuInvalidDescriptor 0x123 udr .root none) none
    ∧ replyTo (.walk upr 0x456789) { paged 0x81C0AA00 0 0x7FFF000204014000 with
        params := { e0.params with earlyTermOffset := .remainingIndexBits } }
      = .ok (.walk ⟨0x04756789, false, false, false⟩)
    ∧ replyTo (.walk udr 0x3040) { pagedLong 0x80C0AA00 0x7FFF000304016000 with
        params := { e0.params with limitCheck := .fault } }
      = .fault (walkRecord sT .mmuLimitViolation 0x3040 udr (.table .b) (some 0x04012018)) none
    ∧ replyTo (.walk udr 0x1040) (pagedLong 0x80C0AA00 0x7FFF000304016000)
      = .fault (walkRecord sT .mmuSupervisorViolation 0x1040 udr (.table .b) (some 0x04012008)) none
    ∧ replyTo (.walk udr 0x2040) (pagedLong 0x80C50F00 0x7FFF000204016000)
      = .fault (walkRecord sT .mmuSupervisorViolation 0x2040 udr .indirect (some 0x04012008)) none := by decide +kernel

/-- V-A1, V-P17, V-X3. -/
theorem test_translate : replyTo (.translate udr 0x123) sT = .ok (.translation ⟨0x04100123, false, false, false, .walk⟩)
    ∧ sA.atc[0]? = some ⟨true, 1, 0, 0x04100000, false, false, false, false⟩ ∧ sA.atcNext = 0
    ∧ replyTo (.translate spr 0x456789) (paged 0x00C0AA00 0 0x7FFF000204010000)
      = .ok (.translation ⟨0x456789, false, false, false, .identity⟩) := by decide +kernel
/-- V-A2, L1.3, L1.8. -/
theorem test_translate_atc_and_windows :
    replyTo (.translate udr 0x123) sA = .ok (.translation ⟨0x04100123, false, false, false, .atc⟩)
    ∧ replyTo (.translate udw 0xFF001234) (withTt0 0xFF008307 sT)
      = .fault (directionRecord sT 0xFF001234 udw 0 .noWrite) none
    ∧ replyTo (.translate udw 0x01001000) (after (.wrTt1 0x000F8000) (withTt0 0x00008307 sT))
      = .ok (.translation ⟨0x01001000, false, false, false, .tt1⟩) := by decide +kernel

/-- V-A3, V-A4, V-A6, V-A23. -/
theorem test_atcLookup : replyTo (.atcLookup udr 0xFFF) sA = .ok (.atcHit ⟨0, 0x04100FFF, false, false, false⟩)
    ∧ replyTo (.atcLookup sdr 0x123) sA = .ok .atcMiss
    ∧ replyTo (.atcLookup udw 0x123) sA = .ok (.atcHit ⟨0, 0x04100123, false, false, false⟩)
    ∧ replyTo (.atcLookup udr 0) (paged 0x80700000 0 0) = .refuse .tcUnmodelled := by decide +kernel
/-- V-A20. -/
theorem test_atcInsert : (after (.atcInsert true true false true false 0x12345678 0x0ABCD999) sT).atc[0]?
      = some ⟨true, 5, 0x12345000, 0x0ABCD000, false, false, true, false⟩
    ∧ packTag ⟨true, 5, 0x12345000, 0x0ABCD000, false, false, true, false⟩ = 0x1234500B
    ∧ packEntry ⟨true, 5, 0x12345000, 0x0ABCD000, false, false, true, false⟩ = 0x0ABCD004 := by decide +kernel

/-- A full ATC, entry `k` for page `k` of fc 1 (V-A13). -/
def fullAtc : List AtcEntry :=
  (List.range 22).map fun k =>
    ⟨true, 1, BitVec.ofNat 32 (k * 0x1000), BitVec.ofNat 32 (0x04000000 + k * 0x1000), false, false, false, false⟩

/-- V-A14. -/
theorem test_atcInsert_fifo :
    (after (.atcInsert false true false false false 0x16000 0x04016000) { sT with atc := fullAtc }).atc[0]?
      = some ⟨true, 1, 0x16000, 0x04016000, false, false, false, false⟩
    ∧ (after (.atcInsert false true false false false 0x16000 0x04016000) { sT with atc := fullAtc }).atcNext = 1 := by
  decide +kernel
/-- V-A7 to V-A9. -/
theorem test_flushPage : (after (.flushPage 1 0xFFC) sA).atc[0]?
      = some ⟨false, 1, 0, 0x04100000, false, false, false, false⟩
    ∧ (after (.flushPage 1 0x1000) sA).atc = sA.atc ∧ (after (.flushPage 5 0) sA).atc = sA.atc := by decide +kernel
/-- V-A10, V-A12. -/
theorem test_flushFc : (after (.flushFc 1) (after (.translate sdr 0x123) sA)).atc.map (·.valid)
    = false :: true :: List.replicate 20 false := by decide +kernel
theorem test_flushAll : (after .flushAll sA).atc[0]? = some ⟨false, 1, 0, 0x04100000, false, false, false, false⟩ := by
  decide +kernel

/-- V-P1 to V-P3 and V-P5, V-P8, V-P9. -/
theorem test_lread8 : replyTo (.lread8 false true 0x123) (after (.pwrite8 0x04100123 0x5C) sT)
    = .ok (.value .byte 0x5C) := by decide +kernel
theorem test_lread16 : replyTo (.lread16 false true 0xFFF) sT = .refuse .pageCross
    ∧ replyTo (.lread16 false false 0x124) sT = .ok (.value .word 0)
    ∧ ((after (.lread16 false false 0x124) sT).atc[0]?.map (·.fc)) = some 2 := by decide +kernel
theorem test_lread32 : replyTo (.lread32 false true 0x4000) sT
      = .fault { busErrorRecord sT 0x80000000 .long false with la := some 0x4000, acc := some udr } (some 0)
    ∧ ((after (.lread32 false true 0x4000) sT).atc[0]?.map (·.ppage)) = some 0x80000000 := by decide +kernel
/-- V-P10: no value, no insertion; and, by R13 and R461, no insertion where the bank refuses, though TRANSLATE of the
same address inserts. -/
theorem test_lread8_fault : replyTo (.lread8 false true 0x3000) sT
      = .fault (walkRecord sT .mmuInvalidDescriptor 0x3000 udr (.table .b) (some 0x0401100C)) none
    ∧ (after (.lread8 false true 0x3000) sT).atc = sT.atc
    ∧ replyTo (.lread8 false true 0x10) romPage = .refuse .config
    ∧ (after (.lread8 false true 0x10) romPage).atc = romPage.atc
    ∧ (after (.translate udr 0x10) romPage).atc[0]? = some ⟨true, 1, 0, 0, false, false, false, false⟩ := by
  decide +kernel
/-- V-P12. -/
theorem test_lread32_identity : replyTo (.lread32 true true 0x04801234) e0 = .ok (.value .long 0x04801234) := by
  decide +kernel
/-- V-P6, V-P7, V-P4, V-P13. -/
theorem test_lwrite8 : replyTo (.pread8 0x04101ABC) (after (.lwrite8 false true 0x1ABC 0x77) sT)
    = .ok (.value .byte 0x77) := by decide +kernel
theorem test_lwrite16 : replyTo (.pread16 0x04102010) (after (.lwrite16 false true 0x2010 0xA55A) sT)
    = .ok (.value .word 0xA55A) := by decide +kernel
theorem test_lwrite32 : replyTo (.lwrite32 false true 0xFFE 1) sT = .refuse .pageCross
    ∧ replyTo (.pread32 0x04001000) (after (.lwrite32 true true 0x04801000 0xCAFEF00D) e0)
      = .ok (.value .long 0xCAFEF00D) := by decide +kernel

/-- V-H1, V-H7, V-DP1. -/
theorem test_pread8 : replyTo (.pread8 0x04000102) (after (.pwrite32 0x04000100 0x11223344) e0) = .ok (.value .byte 0x33)
    ∧ replyTo (.pread8 0x80000000) e0 = .fault (busErrorRecord e0 0x80000000 .byte false) (some 0) := by decide +kernel
/-- V-H2, V-H10, V-H11. -/
theorem test_pread16 : replyTo (.pread16 0x04000101) (after (.pwrite32 0x04000100 0x11223344) e0)
      = .ok (.value .word 0x2233)
    ∧ replyTo (.pread16 3) e0 = .ok (.value .word 0x789A) ∧ replyTo (.pread16 0x1FFFF) e0 = .refuse .mirrorEnd := by
  decide +kernel
/-- V-H8, V-H12, V-H5, V-H26. -/
theorem test_pread32 : replyTo (.pread32 0x01000000) e0 = .ok (.value .long 0x12345678)
    ∧ replyTo (.pread32 0x01020004) e0 = .ok (.value .long 0x9ABCDEF0)
    ∧ replyTo (.pread32 0x047FFFFE) e0 = .refuse .mirrorEnd
    ∧ replyTo (.pread32 0x04A00010) e0 = .ok (.value .long 0x04A00010) := by decide +kernel
/-- V-H15 to V-H19: the boot overlay. -/
theorem test_overlay : replyTo (.pread32 0) { after (.pwrite32 0x047FE000 0xDEADBEEF) e0 with bootOverlay := true }
      = .ok (.value .long 0xDEADBEEF)
    ∧ replyTo (.pread32 0x01000000) { e0 with bootOverlay := true } = .ok (.value .long 0x12345678)
    ∧ replyTo (.pread32 0x1FFE) { e0 with bootOverlay := true } = .refuse .mirrorEnd
    ∧ replyTo (.pread8 0x2000) { e0 with bootOverlay := true } = .ok (.value .byte 0) := by decide +kernel
/-- V-H21, V-H14. -/
theorem test_pwrite8 : replyTo (.pread8 0x0B000005) (after (.pwrite8 0x0B000005 0xFF) e0) = .ok (.value .byte 0xFF)
    ∧ (after (.pwrite8 0 0xFF) e0).stores = e0.stores
    ∧ (after (.pwrite8 0 0xFF) e0).diagLog = [.romWriteDiscarded .byte 0 0xFF 0] := by decide +kernel
/-- V-H27. -/
theorem test_pwrite16 : replyTo (.pwrite16 0x04800000 1) e0 = .fault (busErrorRecord e0 0x04800000 .word true) none := by
  decide +kernel
/-- V-H29, V-H30, V-H31. -/
theorem test_pwrite32 : replyTo (.pread32 0x047FFFFC) (after (.pwrite32 0x04FFFFFC 0x01020304) e0)
      = .ok (.value .long 0x01020304)
    ∧ replyTo (.pwrite32 0x04FFFFFE 1) e0 = .refuse .mirrorEnd
    ∧ replyTo (.pwrite32 0x05000000 1) e0 = .fault (busErrorRecord e0 0x05000000 .long true) none := by decide +kernel
/-- V-H36: an I/O write is recorded and stores nothing. -/
theorem test_io_write : ((after (.pwrite32 0x02000000 0x12345678) e0).ioHistory.length = 1)
    ∧ (after (.pwrite32 0x02000000 0x12345678) e0).stores = e0.stores := by
  have hb : bankAt e0.slots (slotOf 0x02000000) = .io := by decide +kernel
  have h : deliver carriesNone (physStore .long 0x02000000 0x12345678 e0) = _ := exec_after (.pwrite32 _ _) e0
  obtain ⟨-, -, -, -, hs, hi, -⟩ := deliver_next h
  rw [hi, hs]
  simp only [physStore, mapAns_snd, physWrite, hb, bankWrite, ioWrite]
  split <;> exact ⟨rfl, rfl⟩
/-- V-DP4 to V-DP6. -/
theorem test_toHost : replyTo (.toHost 0x04000010) e0 = .ok (.hostRef ⟨.ram 0, 0x10⟩)
    ∧ replyTo (.toHost 0x0100ABCD) e0 = .ok (.hostRef ⟨.rom, 0xABCD⟩)
    ∧ replyTo (.toHost 0x02000000) e0 = .fault (bareFault .busError 0) none := by decide +kernel
/-- V-DP8 to V-DP13. -/
theorem test_boundsCheck : replyTo (.boundsCheck 0x04000000 4) e0 = .ok (.bool true)
    ∧ replyTo (.boundsCheck 0x12345678 0x7FFFFF) e0 = .ok (.bool false)
    ∧ replyTo (.boundsCheck 0x04000000 0x800000) e0 = .ok (.bool false)
    ∧ replyTo (.boundsCheck 0x01000000 0x1FFFF) e0 = .ok (.bool true) := by decide +kernel
/-- V-DP14 to V-DP16. -/
theorem test_map : bankAt (after (.map .io 0x300 0x10) e0).slots 0x30F = .io
    ∧ bankAt (after (.map .io 0x300 0x10) e0).slots 0x310 = .busErr
    ∧ bankAt (after (.map .io 0xFFFF 1) e0).slots 0xFFFF = .io := by decide +kernel
theorem test_map_refused : replyTo (.map .io 0xFFFF 2) e0 = .refuse .mapRange
    ∧ (after (.map .io 0xFFFF 2) e0).slots = e0.slots
    ∧ replyTo (.map (.ram 1) 0 1) e0 = .refuse .illegalCommand := by decide +kernel
/-- V-S1. -/
theorem test_regionName : replyTo (.regionName 0x02001000) e0 = .ok (.name "IO")
    ∧ replyTo (.regionName 0x05000000) e0 = .ok (.name "empty")
    ∧ replyTo (.regionName 0x0B000000) e0 = .ok (.name "mono video") := by decide +kernel
/-- V-S2. -/
theorem test_queryDecoded : replyTo .queryDecoded sT = .ok (.decoded ⟨sT.regs.tc, ⟨0, 0, 0, false⟩,
    ⟨0x04010000, 2, 0x7FFF, false⟩, ⟨false, false, false, false, 0, 0xFF000000, 0, 7⟩,
    ⟨false, false, false, false, 0, 0xFF000000, 0, 7⟩⟩) := by decide +kernel
/-- V-S3. -/
theorem test_snapSave : replyTo .snapSave e0
    = .ok (.bytes ([0, 0, 0, 1] ++ List.replicate 32 0 ++ [0, 0, 0, 0x16] ++ List.replicate 176 0)) := by decide +kernel
/-- V-S4, V-S5. -/
theorem test_snapRestore : (after (.snapRestore viewS4) e0).regs = sA.regs
    ∧ (after (.snapRestore viewS4) e0).atc = sA.atc := by decide +kernel
/-- V-S6 to V-S9. -/
theorem test_snapRestore_refused : replyTo (.snapRestore (view54 [2, 0, 0, 0, 0, 0, 0, 0, 0, 0x16])) e0 = .refuse .snapshot
    ∧ replyTo (.snapRestore (view54 [1, 0, 0, 0, 0, 0, 0, 0, 0, 0x15])) e0 = .refuse .snapshot
    ∧ replyTo (.snapRestore (view54 [1, 0, 0, 0, 0, 0, 0, 0, 0x10000, 0x16])) e0 = .refuse .snapshot
    ∧ replyTo (.snapRestore (view54 [1, 0, 0, 0, 0, 0, 0, 0, 0, 0x16, 0xF3])) e0 = .refuse .snapshot := by decide +kernel
/-- V-Z1. -/
theorem test_mmuReset : (after .mmuReset sA).regs = e0.regs ∧ (after .mmuReset sA).atc = e0.atc
    ∧ (after .mmuReset sA).stores = sA.stores := by decide +kernel
/-- V-Z5. -/
theorem test_coldReset : (after .coldReset sA).regs = e0.regs ∧ (after .coldReset sA).stores = e0.stores
    ∧ (after .coldReset sA).slots = e0.slots := by decide +kernel
/-- V-Z6. -/
theorem test_coldReset_refused : replyTo .coldReset { e0 with loader := { e0.loader with
    ram := [{ base := 0x04000000, size := 0x600000, maxSlots := 0x100, init := .fixed [], name := "" }] } }
    = .refuse .config := by decide +kernel
/-- A step runs the next call of the inbox; the host's word placed by `withFetchWord` runs next. -/
theorem test_step : step (e0.withFetchWord 64 0x80C0AA0000000010) = .next (after (.wrTc 0x80C0AA00) e0) := by
  rw [← exec_after]; rfl

/-! ### Witnesses: the hypotheses of each statement can be met, in every clause -/

theorem witness_DecodeReadsBackEncode : (Instr.map (.ram 0xFFFFFEFF) 0xFFFF 1).wellFormed = true
    ∧ (Instr.snapRestore viewS4).wellFormed = true ∧ (Instr.wrTc 0xFFFFFFFF).wellFormed = true := by decide +kernel

theorem witness_DecodedCallIsItsEncoding :
    decode [0x4A, 0xFFFFFFFF, 0, 1] = .instr (.map (.ram 0xFFFFFEFF) 0 1) := by decide +kernel

/-- One call for each case of R163: V-E10, V-E11, V-E12, V-E13, V-E15, V-E16, V-E17, V-E18, V-E19. -/
theorem witness_IllegalCallsAreRefused : IllegalCall e0.params 0x33 [0] ∧ IllegalCall e0.params 0x00020020 [0]
    ∧ IllegalCall e0.params 0x110 [0] ∧ IllegalCall e0.params 0x732 [0] ∧ IllegalCall e0.params 0x34 [0, 0]
    ∧ IllegalCall e0.params 0x44 [0, 0x100] ∧ IllegalCall e0.params 0x45 [0, 0x10000]
    ∧ IllegalCall e0.params 0x15 [0x10000] ∧ IllegalCall e0.params 0x4A [6, 0, 1]
    ∧ IllegalCall e0.params 0x4A [0xFF, 0, 1] ∧ IllegalCall e0.params 0x4A [0x101, 0, 1] :=
  ⟨.unknownOp (by decide), .reservedBit (by decide), .unusedBit (0x10, 0) (by decide) (by decide) (by decide),
    .readDirection (by decide) (by decide), .writeDirection (by decide) (by decide),
    .wideByte (by decide) 0 0x100 rfl (by decide), .wideWord (by decide) 0 0x10000 rfl (by decide),
    .wideStatus (by decide) 0x10000 rfl (by decide), .badBank (by decide) 6 0 1 rfl (by decide) (by decide),
    .badBank (by decide) 0xFF 0 1 rfl (by decide) (by decide),
    .badBank (by decide) 0x101 0 1 rfl (by decide) (by decide)⟩

theorem witness_StepRunsDecodedCommand : decode [0x28] = .instr .flushAll := by decide +kernel

theorem witness_StepTakesHostEvents : decode [] = .reject .noHeader ∧ decode [0x28, 0] = .reject .wrongLength
    ∧ decode (0x61 :: 0 :: viewS4) = .reject .viewLength := by decide +kernel

/-- A shift of exactly 0 (sum of widths 32) and of less than 0, a level of width 0 and of width 15. -/
theorem witness_TcDecodeFields : bitsDownTo 0x800FF200 .b = 32 ∧ bitsDownTo 0x800FF300 .b = 33
    ∧ rawWidth 0x800FF200 .c = 0 ∧ rawWidth 0x800FF200 .a = 15 := by decide +kernel

/-- IS 0 and IS 4, PS 15 and PS 0. -/
theorem witness_TcMasksPartitionTheAddress : rawSum 0x80C0AA00 = 32 ∧ rawSum 0x80C4A600 = 32
    ∧ rawSum 0x80F0F200 = 32 ∧ rawSum 0x800FF200 = 32 := by decide +kernel

theorem witness_RegistersChangeOnlyByTheirWrites : exec (.wrTt0 0xFF008307) e0 = .next (after (.wrTt0 0xFF008307) e0)
    ∧ setsAllRegisters (.wrTt0 0xFF008307) = false ∧ (∀ v, Instr.wrTt0 0xFF008307 ≠ .wrTc v) :=
  ⟨exec_after _ _, rfl, fun _ => nofun⟩

/-- E0 with a call in the inbox. -/
def e0Called : State := e0.withFetchWord 64 0x80C0AA0000000010

theorem witness_DecodedRegistersAgreeKept : DecodedAgrees e0Called.regs
    ∧ step e0Called = .next (after (.wrTc 0x80C0AA00) e0) := ⟨⟨rfl, rfl, rfl, rfl, rfl⟩, test_step⟩

/-- A translation inserts, a register write does not. -/
theorem witness_OnlyAtcOperationsChangeTheAtc : exec (.translate udr 0x123) sT = .next sA
    ∧ isFlush (.translate udr 0x123) = false ∧ setsAllRegisters (.translate udr 0x123) = false
    ∧ sA.atc ≠ sT.atc ∧ mayInsert (.wrTc 0) = false ∧ isFlush (.wrTc 0) = false :=
  ⟨exec_after _ _, rfl, rfl, by decide +kernel, rfl, rfl⟩

/-- An entry that each flush picks and one that none but FLUSH_ALL does. -/
theorem witness_FlushesClearExactlyTheirEntries : ∃ e x, sA.atc[0]? = some e ∧ sA.atc[1]? = some x
    ∧ AtcHits sA.regs.tc.pageMask 1 0xFFC e ∧ ¬ AtcHits sA.regs.tc.pageMask 1 0x1000 e ∧ x.valid = false :=
  ⟨⟨true, 1, 0, 0x04100000, false, false, false, false⟩, .zero, by decide +kernel, by decide +kernel,
    ⟨by decide, by decide, by decide +kernel⟩, fun h => absurd h.2.2 (by decide +kernel), rfl⟩

theorem witness_FlushedAddressMisses : sA.regs.tc.tcUnmodelled = false ∧ functionCode udr = 1
    ∧ (0x123 : Word) &&& ~~~sA.regs.tc.pageMask = 0xFFF &&& ~~~sA.regs.tc.pageMask
    ∧ exec (.flushPage 1 0xFFF) sA = .next (after (.flushPage 1 0xFFF) sA) :=
  ⟨by decide +kernel, by decide, by decide +kernel, exec_after _ _⟩

theorem witness_AtcLookupAnswersLowestHit : LowestHit sA 1 0x123 0 ⟨true, 1, 0, 0x04100000, false, false, false, false⟩
    ∧ NoHit sT 1 0x123 ∧ sA.regs.tc.tcUnmodelled = false ∧ (paged 0x80700000 0 0).regs.tc.tcUnmodelled = true :=
  ⟨⟨rfl, by decide +kernel, ⟨rfl, rfl, by decide +kernel⟩, nofun⟩,
    .inr fun e he h => by
      have : e ∈ List.replicate 22 AtcEntry.zero := he
      rw [List.eq_of_mem_replicate this] at h; exact absurd h.1 (by decide),
    by decide +kernel, by decide +kernel⟩

/-- A free entry, a full ATC under each policy, and the ATC off. -/
theorem witness_AtcInsertFillsTheVictim : sA.atc.length = 22 ∧ fullAtc.length = 22
    ∧ (∀ x ∈ fullAtc, x.valid = true) ∧ sA.atc[1]? = some .zero ∧ AtcEntry.zero.valid = false
    ∧ (∀ j < 1, ∀ y, sA.atc[j]? = some y → y.valid = true)
    ∧ sA.params.atcMode = .normal ∧ sA.params.atcVictim = .fifo
    ∧ ({ sA with params := { sA.params with atcVictim := .draw } } : State).params.atcVictim = .draw
    ∧ ({ sA with params := { sA.params with atcMode := .alwaysMiss } } : State).params.atcMode = .alwaysMiss := by
  refine ⟨by decide +kernel, by decide +kernel, by decide +kernel, by decide +kernel, rfl, ?_, by decide +kernel,
    by decide +kernel, rfl, rfl⟩
  intro j hj y hy
  obtain rfl : j = 0 := by omega
  have : sA.atc[0]? = some ⟨true, 1, 0, 0x04100000, false, false, false, false⟩ := by decide +kernel
  rw [this] at hy; cases hy; rfl

theorem witness_AtcEntriesStayPageAligned : DecodedAgrees e0Called.regs ∧ AtcAligned e0Called
    ∧ step e0Called = .next (after (.wrTc 0x80C0AA00) e0) :=
  ⟨⟨rfl, rfl, rfl, rfl, rfl⟩, fun e he => by
    have : e ∈ List.replicate 22 AtcEntry.zero := he
    rw [List.eq_of_mem_replicate this]; decide, test_step⟩

theorem witness_PackedEntryIsLossless : (0xFFFFFF00 : Word) &&& 0xFF = 0 := by decide

/-- The walk of V-A1, then the last byte of its page. -/
theorem witness_RepeatedTranslationHitsTheAtc : sT.atc.length = 22 ∧ sT.params.atcMode = .normal
    ∧ exec (.translate udr 0x123) sT = .next sA
    ∧ sA.reply = .ok (.translation ⟨0x04100123, false, false, false, .walk⟩)
    ∧ functionCode udw = functionCode udr
    ∧ (0xFFF : Word) &&& ~~~sT.regs.tc.pageMask = 0x123 &&& ~~~sT.regs.tc.pageMask ∧ NoWindow sT 0xFFF udw :=
  ⟨by decide +kernel, by decide +kernel, exec_after _ _, by decide +kernel, by decide, by decide +kernel,
    by decide +kernel, by decide +kernel⟩

theorem witness_WindowMatchFromRawBits : (withTt0 0xFF008307 e0).regs.tt0 = decodeTt (withTt0 0xFF008307 e0).regs.tt0Raw
    ∧ (after (.wrTt1 0x000F8000) e0).regs.tt1 = decodeTt (after (.wrTt1 0x000F8000) e0).regs.tt1Raw := ⟨rfl, rfl⟩

/-- OkMatch and both direction results in each window. -/
theorem witness_WindowsComeFirst : ttMatch e0.params (decodeTt 0xFF008307) 0xFF001234 udr = .okMatch
    ∧ ttMatch e0.params (decodeTt 0xFF008307) 0xFF001234 udw = .noWrite
    ∧ ttMatch e0.params (decodeTt 0xFF008107) 0xFF001234 udr = .noRead
    ∧ ttMatch e0.params (decodeTt 0xFF008307) 0xFEFFFFFF udw = .noMatch := by decide +kernel

/-- The last byte that fits the mirror of the last slot of RAM, and the first that does not. -/
theorem witness_PhysicalReadAnswersStoreBytes : storeOf e0 (bankAt e0.slots ((0x047FFFFC : Word).toNat / 0x10000))
      = some (⟨none, []⟩, 0x800000) ∧ ¬ OverlaidRead e0 0x047FFFFC
    ∧ (0x047FFFFC : Word).toNat &&& (0x800000 - 1) = 0x7FFFFC ∧ 0x7FFFFC + widthBytes .long - 1 ≤ 0x800000 - 1
    ∧ 0x800000 - 1 < 0x7FFFFD + widthBytes .long - 1 :=
  ⟨by decide +kernel, fun h => absurd h.2.1 (by decide +kernel), by decide, by decide, by decide⟩

/-- The last overlaid byte; a target in RAM and one in no RAM. -/
theorem witness_OverlayRedirectsRomReads : OverlaidRead { e0 with bootOverlay := true } 0x1FFF
    ∧ bankAt e0.slots ((e0.params.overlayRamBase + 0x1FFF).toNat / 0x10000) = .ram 0
    ∧ bankAt e0.slots (((0x10000000 : Word) + 0x1FFF).toNat / 0x10000) = .busErr :=
  ⟨⟨by decide +kernel, rfl, by decide⟩, by decide +kernel, by decide +kernel⟩

/-- A BusErr slot, an Empty slot with an owner at its last long word and one byte further, and one without. -/
theorem witness_EmptyAndBusErrBanks : bankAt e0.slots ((0x10000000 : Word).toNat / 0x10000) = .busErr
    ∧ bankAt e0.slots ((0x04FFFFFC : Word).toNat / 0x10000) = .empty
    ∧ emptyOwnerAt e0.params ((0x04FFFFFC : Word).toNat / 0x10000) = some 0 ∧ e0.stores.ram[0]? = some ⟨none, []⟩
    ∧ (⟨none, []⟩ : Memory).wf = true ∧ ((0x04FFFFFC : Word) - 0x04000000).toNat % 0x800000 = 0x7FFFFC
    ∧ ((0x04FFFFFD : Word) - 0x04000000).toNat % 0x800000 = 0x7FFFFD
    ∧ bankAt e0.slots ((0x0500FFFF : Word).toNat / 0x10000) = .empty
    ∧ emptyOwnerAt e0.params ((0x0500FFFF : Word).toNat / 0x10000) = none := by decide +kernel

theorem witness_IoBankAsksTheCollaborator : bankAt e0.slots ((0x02000010 : Word).toNat / 0x10000) = .io
    ∧ (0xA5 : Word).toNat = (0xFFFFFFA5 : Word).toNat % 2 ^ (8 * widthBytes .byte) := by decide +kernel

/-- RAM at its last long word, ROM, and video. -/
theorem witness_PhysicalWriteStoresItsBytes : storeOf e0 (bankAt e0.slots ((0x047FFFFC : Word).toNat / 0x10000))
      = some (⟨none, []⟩, 0x800000) ∧ (⟨none, []⟩ : Memory).wf = true
    ∧ storeOf e0 (bankAt e0.slots ((0x0000FFFF : Word).toNat / 0x10000)) = some (e0.stores.rom, 0x20000)
    ∧ e0.stores.rom.wf = true ∧ bankAt e0.slots ((0x0000FFFF : Word).toNat / 0x10000) = .rom
    ∧ bankAt e0.slots ((0x0B03FFFF : Word).toNat / 0x10000) = .videoMono
    ∧ storeOf e0 .videoMono = some (⟨none, []⟩, 0x40000) := by decide +kernel

/-- V-H4: a mirror of RAM bank 0 at slot 0x600. -/
def e0Mirror : State := after (.map (.ram 0) 0x600 0x80) e0

theorem witness_WriteIsReadThroughEveryAlias :
    storeOf e0Mirror (bankAt e0Mirror.slots ((0x047FFFFC : Word).toNat / 0x10000)) = some (⟨none, []⟩, 0x800000)
    ∧ bankAt e0Mirror.slots ((0x067FFFFC : Word).toNat / 0x10000) = .ram 0
    ∧ bankAt e0Mirror.slots ((0x047FFFFC : Word).toNat / 0x10000) = .ram 0
    ∧ (0x067FFFFF : Word).toNat &&& (0x800000 - 1) = 0x7FFFFC + 3
    ∧ exec (.pwrite32 0x047FFFFC 0x01020304) e0Mirror = .next (after (.pwrite32 0x047FFFFC 0x01020304) e0Mirror) :=
  ⟨by decide +kernel, by decide +kernel, by decide +kernel, by decide, exec_after _ _⟩

/-- The last slot, one slot too far, a bank that is declared and one that is not. -/
theorem witness_MapWritesExactlyItsSlots : (0xFFFF : Word).toNat + (1 : Word).toNat ≤ 65536
    ∧ 65536 < (0xFFFF : Word).toNat + (2 : Word).toNat ∧ e0.params.ram.length ≤ 1 ∧ 0 < e0.params.ram.length
    ∧ (BankRef.ram 1).encodable = true := by decide +kernel

theorem legal_e0 : TableOk e0.params e0.slots := tableOk_build (p := Params.exampleE) (by decide +kernel)

theorem witness_SlotCoverageKept : SlotsCovered e0Called ∧ step e0Called = .next (after (.wrTc 0x80C0AA00) e0) :=
  ⟨legal_e0, test_step⟩

theorem witness_HostViewsAndBounds : bankAt e0.slots ((0x0400FFFF : Word).toNat / 0x10000) = .ram 0
    ∧ ∃ r, e0.params.ram[0]? = some r ∧ r.size = 0x800000 ∧ r.name = "RAM bank 0" :=
  ⟨by decide +kernel, _, rfl, rfl, rfl⟩

theorem witness_QueriesAnswerAndChangeNothing : bankAt e0.slots ((0x0400FFFF : Word).toNat / 0x10000) = .ram 0
    ∧ ∃ r, e0.params.ram[0]? = some r ∧ r.name = "RAM bank 0" := ⟨by decide +kernel, _, rfl, rfl⟩

theorem witness_WalkChangesOnlyTheHistories : exec (.walk udr 0x123) sT = .next (after (.walk udr 0x123) sT)
    ∧ exec (.walk udr 0x3000) sT = .next (after (.walk udr 0x3000) sT)
    ∧ exec (.walk udr 0) (paged 0x80700000 0 0) = .next (after (.walk udr 0) (paged 0x80700000 0 0)) :=
  ⟨exec_after _ _, exec_after _ _, exec_after _ _⟩

/-- Root DT 0 and DT 1, from CRP and, under SRE, from SRP; a function-code level with each type of descriptor, and a
limit at its edge; a root of type 3 whose table descriptor's limit is met, at its edge and not met. -/
theorem witness_WalkFromTheRoot : (paged 0x82C0AA00 0x0000000104000000 0).regs.tc.tcUnmodelled = false
    ∧ (paged 0x82C0AA00 0x0000000104000000 0).regs.tc.sre = true ∧ sdr.supervisor = true
    ∧ (paged 0x82C0AA00 0x0000000104000000 0).regs.srp.dt = 1 ∧ (paged 0x82C0AA00 0x0000000104000000 0).regs.crp.dt = 0
    ∧ udr.supervisor = false
    ∧ (paged 0x81C0AA00 0 0x0001000204014000).regs.tc.fcl = true ∧ (paged 0x81C0AA00 0 0x0001000204014000).regs.crp.dt = 2
    ∧ (functionCode udr).toNat = 1 ∧ (functionCode upr).toNat = 2 ∧ (functionCode sdr).toNat = 5
    ∧ WithinLimit false 1 1 ∧ ¬ WithinLimit false 1 2
    ∧ physRead .long (0x04014000 + 5 * 4) (paged 0x81C0AA00 0 0x7FFF000204014000)
      = (.ok 0, paged 0x81C0AA00 0 0x7FFF000204014000)
    ∧ physRead .long (0x04014000 + 2 * 4) (paged 0x81C0AA00 0 0x7FFF000204014000)
      = (.ok 0x04300001, paged 0x81C0AA00 0 0x7FFF000204014000) ∧ (0x04300001 : Word) &&& 3 = 1
    ∧ (paged 0x81F00000 0 0x7FFF000204011000).regs.tc.present.a = true
    ∧ (paged 0x81F00000 0 0x7FFF000204011000).regs.tc.lastTableIndex = .a
    ∧ physRead .long (0x04011000 + 2 * 4) (paged 0x81F00000 0 0x7FFF000204011000)
      = (.ok 0x04013002, paged 0x81F00000 0 0x7FFF000204011000) ∧ (0x04013002 : Word) &&& 3 = 2
    ∧ physRead .long (((0x04013002 : Word) &&& 0xFFFFFFF0) + 0 * 4) (paged 0x81F00000 0 0x7FFF000204011000)
      = (.ok 0x04102001, paged 0x81F00000 0 0x7FFF000204011000) ∧ (0x04102001 : Word) &&& 3 = 1
    ∧ (pagedLong 0x80C0AA00 0x7FFF000304016000).regs.crp.dt = 3
    ∧ (pagedLong 0x80C0AA00 0x7FFF000304016000).regs.tc.present = ⟨true, true, false, false⟩
    ∧ physRead .long (0x04016000 + 0 * 8) (pagedLong 0x80C0AA00 0x7FFF000304016000)
      = (.ok 0x00020003, pagedLong 0x80C0AA00 0x7FFF000304016000) ∧ (0x00020003 : Word) &&& 3 = 3
    ∧ physRead .long (0x04016000 + 0 * 8 + 4) (pagedLong 0x80C0AA00 0x7FFF000304016000)
      = (.ok 0x04012000, pagedLong 0x80C0AA00 0x7FFF000304016000)
    ∧ ¬ WithinLimit ((0x00020003 : Word).getLsbD 31) (rawField (0x00020003 : Word).toNat 16 15) 3
    ∧ WithinLimit ((0x00020003 : Word).getLsbD 31) (rawField (0x00020003 : Word).toNat 16 15) 2
    ∧ physRead .long (((0x04012000 : Word) &&& 0xFFFFFFF0) + 1 * 8) (pagedLong 0x80C0AA00 0x7FFF000304016000)
      = (.ok 0x00000101, pagedLong 0x80C0AA00 0x7FFF000304016000) ∧ (0x00000101 : Word) &&& 3 = 1
    ∧ physRead .long (((0x04012000 : Word) &&& 0xFFFFFFF0) + 1 * 8 + 4) (pagedLong 0x80C0AA00 0x7FFF000304016000)
      = (.ok 0x04104000, pagedLong 0x80C0AA00 0x7FFF000304016000) := by
  unfold WithinLimit; decide +kernel

/-- V-W2; and the same tables at levels A and C, with level B skipped. -/
theorem witness_WalkOfTwoShortLevels : sT.regs.tc.tcUnmodelled = false ∧ sT.regs.tc.fcl = false
    ∧ sT.regs.tc.lastTableIndex = .b ∧ sT.regs.crp.dt = 2
    ∧ sT.regs.tc.sre = false ∧ WithinLimit sT.regs.crp.limitIsLower sT.regs.crp.limit 0
    ∧ ((0x1ABC : Word) &&& sT.regs.tc.table.a.mask) >>> sT.regs.tc.table.a.shift = 0
    ∧ ((0x1ABC : Word) &&& sT.regs.tc.table.b.mask) >>> sT.regs.tc.table.b.shift = 1
    ∧ physRead .long (sT.regs.crp.tableAddress + 0 * 4) sT = (.ok 0x04011002, sT) ∧ (0x04011002 : Word) &&& 3 = 2
    ∧ physRead .long (((0x04011002 : Word) &&& 0xFFFFFFF0) + 1 * 4) sT = (.ok 0x04101055, sT)
    ∧ (0x04101055 : Word) &&& 3 = 1
    ∧ (decodeTc 0x80C0A0A0).lastTableIndex = .c ∧ (decodeTc 0x80C0A0A0).tcUnmodelled = false
    ∧ (∀ j, levelIndex j ≤ levelIndex .b → (levelGet sT.regs.tc.present j = true ↔ j = .a ∨ j = .b))
    ∧ ∀ j, levelIndex j ≤ levelIndex .c → (levelGet (decodeTc 0x80C0A0A0).present j = true ↔ j = .a ∨ j = .c) := by
  unfold WithinLimit
  refine ⟨?_, ?_, ?_, ?_, ?_, ?_, ?_, ?_, ?_, ?_, ?_, ?_, ?_, ?_, fun j => ?_, fun j => ?_⟩
  iterate 14 decide +kernel
  all_goals cases j <;> decide +kernel

/-- V-W5 and V-W7: an early-termination page and an invalid descriptor at level A. -/
theorem witness_WalkEndsEarlyAtLevelA : sT.regs.tc.present.a = true ∧ sT.regs.tc.lastTableIndex ≠ .a
    ∧ ((0x456789 : Word) &&& sT.regs.tc.table.a.mask) >>> sT.regs.tc.table.a.shift = 1
    ∧ physRead .long (sT.regs.crp.tableAddress + 1 * 4) sT = (.ok 0x04200001, sT) ∧ (0x04200001 : Word) &&& 3 = 1
    ∧ ((0x800000 : Word) &&& sT.regs.tc.table.a.mask) >>> sT.regs.tc.table.a.shift = 2
    ∧ physRead .long (sT.regs.crp.tableAddress + 2 * 4) sT = (.ok 0, sT) ∧ (0 : Word) &&& 3 = 0 := by decide +kernel

/-- V-W32, with TC 0x80F00000; an indirect descriptor to one that is no page; and, at level
B with level A skipped, one of DT 3 to a long page with its S bit set. -/
theorem witness_WalkFollowsOneIndirection :
    (paged 0x80F00000 0 0x7FFF000204010000).regs.tc.lastTableIndex = .a
    ∧ (paged 0x80F00000 0 0x7FFF000204010000).regs.tc.tcUnmodelled = false
    ∧ (paged 0x80F00000 0 0x7FFF000204010000).regs.crp.dt = 2
    ∧ physRead .long 0x04010000 (paged 0x80F00000 0 0x7FFF000204010000)
      = (.ok 0x04011002, paged 0x80F00000 0 0x7FFF000204010000)
    ∧ physRead .long ((0x04011002 : Word) &&& 0xFFFFFFFC) (paged 0x80F00000 0 0x7FFF000204010000)
      = (.ok 0x04100001, paged 0x80F00000 0 0x7FFF000204010000) ∧ (0x04100001 : Word) &&& 3 = 1
    ∧ (decodeTc 0x80C5F000).lastTableIndex = .a
    ∧ ((0x1040 : Word) &&& (decodeTc 0x80C5F000).table.a.mask) >>> (decodeTc 0x80C5F000).table.a.shift = 1
    ∧ physRead .long (0x04014000 + 1 * 4) (paged 0x80C5F000 0 0x7FFF000204014000)
      = (.ok 0x04010002, paged 0x80C5F000 0 0x7FFF000204014000)
    ∧ physRead .long ((0x04010002 : Word) &&& 0xFFFFFFFC) (paged 0x80C5F000 0 0x7FFF000204014000)
      = (.ok 0x04011002, paged 0x80C5F000 0 0x7FFF000204014000) ∧ (0x04011002 : Word) &&& 3 ≠ 1
    ∧ (decodeTc 0x80C50F00).lastTableIndex = .b ∧ (decodeTc 0x80C50F00).tcUnmodelled = false
    ∧ ((0x2040 : Word) &&& (decodeTc 0x80C50F00).table.b.mask) >>> (decodeTc 0x80C50F00).table.b.shift = 2
    ∧ physRead .long (0x04016000 + 2 * 4) (pagedLong 0x80C50F00 0x7FFF000204016000)
      = (.ok 0x0401200B, pagedLong 0x80C50F00 0x7FFF000204016000) ∧ (0x0401200B : Word) &&& 3 = 3
    ∧ physRead .long ((0x0401200B : Word) &&& 0xFFFFFFFC) (pagedLong 0x80C50F00 0x7FFF000204016000)
      = (.ok 0x00000101, pagedLong 0x80C50F00 0x7FFF000204016000)
    ∧ physRead .long (((0x0401200B : Word) &&& 0xFFFFFFFC) + 4) (pagedLong 0x80C50F00 0x7FFF000204016000)
      = (.ok 0x04104000, pagedLong 0x80C50F00 0x7FFF000204016000)
    ∧ (∀ j, levelIndex j ≤ levelIndex .a → (levelGet (decodeTc 0x80F00000).present j = true ↔ j = .a))
    ∧ ∀ j, levelIndex j ≤ levelIndex .b → (levelGet (decodeTc 0x80C50F00).present j = true ↔ j = .b) := by
  refine ⟨?_, ?_, ?_, ?_, ?_, ?_, ?_, ?_, ?_, ?_, ?_, ?_, ?_, ?_, ?_, ?_, ?_, ?_, fun j => ?_, fun j => ?_⟩
  iterate 18 decide +kernel
  all_goals cases j <;> decide +kernel

/-- An index above an upper limit, below a lower one, and at each; a readable and an unreadable descriptor. -/
theorem witness_DescriptorChecksInOrder : (⟨true, 2, false⟩ : Limit).has = true ∧ (2 : Nat) < (3 : Word).toNat
    ∧ (1 : Word).toNat < 2 ∧ ¬ (2 : Nat) < (2 : Word).toNat
    ∧ physRead .long 0x04012000 sT = (.ok 0x00000001, sT) ∧ physRead .long (0x04012000 + 4) sT = (.ok 0x04103000, sT)
    ∧ physRead .long 0x10000000 sT = (.fault (bankFault 0x10000000 .long false 0), sT)
    ∧ physRead .long (0x047FFFFC + 4) sT = (.ok 0x04800000, sT) := by decide +kernel

theorem witness_WalkFetchesAreBounded : exec (.walk udr 0x123) sT = .next (after (.walk udr 0x123) sT) :=
  exec_after _ _

/-- Two states with different ATCs, logs and histories of host references. -/
theorem witness_WalkIsDeterministic : sA.regs.tc = sT.regs.tc ∧ sA.regs.srp = sT.regs.srp ∧ sA.regs.crp = sT.regs.crp
    ∧ sA.params = sT.params ∧ sA.slots = sT.slots ∧ sA.stores = sT.stores ∧ sA.bootOverlay = sT.bootOverlay
    ∧ sA.diagPc = sT.diagPc ∧ sA.atc ≠ sT.atc ∧ exec (.walk udr 0x3000) sT = .next (after (.walk udr 0x3000) sT)
    ∧ (after (.walk udr 0x3000) sT).ioHistory = sT.ioHistory := by
  refine ⟨?_, ?_, ?_, ?_, ?_, ?_, ?_, ?_, ?_, exec_after _ _, ?_⟩ <;> decide +kernel

theorem witness_WriteProtectIsNeverChecked : exec (.walk udr 0x1ABC) sT = .next (after (.walk udr 0x1ABC) sT)
    ∧ (after (.walk udr 0x1ABC) sT).reply = .ok (.walk ⟨0x04101ABC, true, true, true⟩) :=
  ⟨exec_after _ _, by decide +kernel⟩

/-- S_T with the boot overlay on a slot that is no RAM and a root table at address 0, in ROM. -/
def romTables : State :=
  { paged 0x80C0AA00 0 0x7FFF000200000000 with
    params := { e0.params with overlayRamBase := 0x10000000 }
    bootOverlay := true }

/-- Translation off, a TC that is not modelled, an ATC hit, and walks that end, fault and are refused. -/
theorem witness_TranslateWithoutWindow : NoWindow sT 0x123 udr ∧ e0.regs.tc.enabled = false
    ∧ (paged 0x80700000 0 0).regs.tc.enabled = true ∧ (paged 0x80700000 0 0).regs.tc.tcUnmodelled = true
    ∧ sT.regs.tc.enabled = true ∧ sT.regs.tc.tcUnmodelled = false
    ∧ LowestHit sA 1 0x123 0 ⟨true, 1, 0, 0x04100000, false, false, false, false⟩ ∧ NoHit sT 1 0x123
    ∧ (walk 0x123 udr sT).1 = .ok ⟨0x04100123, false, false, false⟩
    ∧ (walk 0x3000 udr sT).1 = .fault (walkRecord sT .mmuInvalidDescriptor 0x3000 udr (.table .b) (some 0x0401100C))
    ∧ (walk 0x00C00000 udr romTables).1 = .refuse .config :=
  ⟨⟨by decide +kernel, by decide +kernel⟩, by decide +kernel, by decide +kernel, by decide +kernel, by decide +kernel,
    by decide +kernel, witness_AtcLookupAnswersLowestHit.1, witness_AtcLookupAnswersLowestHit.2.1, by decide +kernel,
    by decide +kernel, by decide +kernel⟩

/-- The last address at which a Long stays in its page, the first at which it leaves it, a page in a BusErr slot, and a
page that a walk finds and the bank then refuses. -/
theorem witness_LogicalAccessIsTranslatedOnce : NoWindow sT 0xFFD ⟨false, true, false⟩
    ∧ (0xFFD : Word) &&& ~~~sT.regs.tc.pageMask
      ≠ (0xFFD + BitVec.ofNat 32 (widthBytes .long - 1)) &&& ~~~sT.regs.tc.pageMask
    ∧ (0xFFC : Word) &&& ~~~sT.regs.tc.pageMask
      = (0xFFC + BitVec.ofNat 32 (widthBytes .long - 1)) &&& ~~~sT.regs.tc.pageMask
    ∧ (translate 0xFFC udr sT).1 = .ok ⟨0x04100FFC, false, false, false, .walk⟩
    ∧ (translate 0x3000 udr sT).1 = .fault (walkRecord sT .mmuInvalidDescriptor 0x3000 udr (.table .b) (some 0x0401100C))
    ∧ (translate 0x123 udr (paged 0x80700000 0 0)).1 = .refuse .tcUnmodelled
    ∧ (physRead .long 0x04100FFC sT).1 = .ok 0
    ∧ (physRead .long 0x80000000 sT).1 = .fault (busErrorRecord sT 0x80000000 .long false)
    ∧ (physRead .long 0x047FFFFD sT).1 = .refuse .mirrorEnd ∧ (physWrite .long 0x04100FFC 1 sT).1 = .ok ()
    ∧ (physWrite .long 0x80000000 1 sT).1 = .fault (busErrorRecord sT 0x80000000 .long true)
    ∧ (physWrite .long 0x047FFFFD 1 sT).1 = .refuse .mirrorEnd
    ∧ (translate 0x10 udr romPage).1 = .ok ⟨0x10, false, false, false, .walk⟩
    ∧ (physRead .byte 0x10 (translate 0x10 udr romPage).2).1 = .refuse .config := by
  refine ⟨⟨?_, ?_⟩, ?_, ?_, ?_, ?_, ?_, ?_, ?_, ?_, ?_, ?_, ?_, ?_, ?_⟩ <;> decide +kernel

theorem witness_LogicalAccessWithTranslationOff : e0.regs.tt0.enabled = false ∧ e0.regs.tt1.enabled = false
    ∧ e0.regs.tc.enabled = false
    ∧ storeOf e0 (bankAt e0.slots ((0x047FFFFC : Word).toNat / 0x10000)) = some (⟨none, []⟩, 0x800000)
    ∧ (⟨none, []⟩ : Memory).wf = true ∧ 0x7FFFFC + widthBytes .long - 1 ≤ 0x800000 - 1 ∧ ¬ OverlaidRead e0 0x047FFFFC
    ∧ bankAt e0.slots ((0x047FFFFC : Word).toNat / 0x10000) ≠ .rom := by
  refine ⟨?_, ?_, ?_, ?_, ?_, ?_, fun h => absurd h.2.1 (by decide +kernel), ?_⟩ <;> decide +kernel

/-- A bus error of a read, which carries 0, and a fault of a translation, which carries nothing. -/
theorem witness_FaultsChangeNoRegisterTableOrStore :
    exec (.lread32 false true 0x4000) sT = .next (after (.lread32 false true 0x4000) sT)
    ∧ (after (.lread32 false true 0x4000) sT).reply
      = .fault { busErrorRecord sT 0x80000000 .long false with la := some 0x4000, acc := some udr } (some 0)
    ∧ exec (.translate udr 0x3000) sT = .next (after (.translate udr 0x3000) sT)
    ∧ (after (.translate udr 0x3000) sT).reply
      = .fault (walkRecord sT .mmuInvalidDescriptor 0x3000 udr (.table .b) (some 0x0401100C)) none
    ∧ (after (.pread8 0x80000000) sT).reply = .fault (busErrorRecord sT 0x80000000 .byte false) (some 0) :=
  ⟨exec_after _ _, by decide +kernel, exec_after _ _, by decide +kernel, by decide +kernel⟩

/-- V-X4: a limit event, then the fault; and a command that returns none. -/
theorem witness_FaultIsReportedOnceAndLast :
    (after (.translate udr 0xC01040) (paged 0x80C0AA00 0 0x0002000204010000)).reply
      = .fault (walkRecord sT .mmuSupervisorViolation 0xC01040 udr (.table .b) (some 0x04012008)) none
    ∧ (after (.translate udr 0xC01040) (paged 0x80C0AA00 0 0x0002000204010000)).diagLog
      = [.limitViolationLogged (.table .a) 3 2 false 0,
         .faultReported (walkRecord sT .mmuSupervisorViolation 0xC01040 udr (.table .b) (some 0x04012008))]
    ∧ sA.reply = .ok (.translation ⟨0x04100123, false, false, false, .walk⟩) ∧ Instr.translate udr 0x123 ≠ .coldReset :=
  ⟨by decide +kernel, by decide +kernel, by decide +kernel, nofun⟩

/-- Each of the five kinds: a bus error of a bank, of a descriptor fetch and of TO_HOST, and an invalid descriptor at the
root, at a level and where an indirection ends. -/
theorem witness_FaultKindsUnderTheirOptions :
    replyTo (.walk udr 0xC00040) { paged 0x80C0AA00 0 0x0002000204010000 with
        params := { e0.params with limitCheck := .fault } }
      = .fault (walkRecord sT .mmuLimitViolation 0xC00040 udr (.table .a) (some 0x0401000C)) none
    ∧ replyTo (.walk udr 0xC01040) sT
      = .fault (walkRecord sT .mmuSupervisorViolation 0xC01040 udr (.table .b) (some 0x04012008)) none
    ∧ replyTo (.translate udw 0xFF001234) (withTt0 0xFF008307 sT)
      = .fault (directionRecord sT 0xFF001234 udw 0 .noWrite) none
    ∧ replyTo (.walk udr 0x123) (paged 0x80C0AA00 0 0)
      = .fault (walkRecord sT .mmuInvalidDescriptor 0x123 udr .root none) none
    ∧ replyTo (.walk udr 0x3000) sT
      = .fault (walkRecord sT .mmuInvalidDescriptor 0x3000 udr (.table .b) (some 0x0401100C)) none
    ∧ replyTo (.walk udr 0x1040) (paged 0x80C5F000 0 0x7FFF000204014000)
      = .fault (walkRecord sT .mmuInvalidDescriptor 0x1040 udr .indirect (some 0x04010000)) none
    ∧ replyTo (.pread8 0x80000000) e0 = .fault (busErrorRecord e0 0x80000000 .byte false) (some 0)
    ∧ replyTo (.walk udr 0x123) (paged 0x80C0AA00 0 0x7FFF000280000000)
      = .fault { walkRecord sT .busError 0x123 udr (.table .a) (some 0x80000000) with pa := some 0x80000000 } none
    ∧ replyTo (.toHost 0x80000000) e0 = .fault (bareFault .busError 0) none := by decide +kernel

/-- A refusal of a command that does not walk, of two that do, one of them after its walk, and a command that is
answered. -/
theorem witness_RefusalsMarkAndChangeNothing : replyTo (.map .io 0xFFFF 2) e0 = .refuse .mapRange
    ∧ mayWalk (.map .io 0xFFFF 2) = false ∧ replyTo (.lread16 false true 0xFFF) sT = .refuse .pageCross
    ∧ replyTo (.lread8 false true 0x10) romPage = .refuse .config
    ∧ replyTo .rdTc e0 = .ok (.value .long 0) := by decide +kernel

theorem witness_DiagnosticLogIsNeverRead : exec (.translate udr 0x3000) sT = .next (after (.translate udr 0x3000) sT) :=
  exec_after _ _

theorem witness_SnapSaveAnswersTheView : sA.atc.length = 22 := by decide +kernel

/-- A view that is accepted, with an entry word at each edge, and the five ways not to be. -/
theorem witness_SnapRestoreTakesTheView : (0 :: viewS4).length ≠ 54 ∧ viewS4.length = 54 ∧ viewS4.getD 0 0 = 1 ∧ viewS4.getD 9 0 = 22
    ∧ (viewS4.getD 8 0).toNat < 0x10000 ∧ (∀ j, 10 ≤ j → j < 54 → viewS4.getD j 0 &&& 0xF0 = 0)
    ∧ (view54 [2]).getD 0 0 ≠ 1 ∧ (view54 [1]).getD 9 0 ≠ 22
    ∧ 0x10000 ≤ ((view54 [1, 0, 0, 0, 0, 0, 0, 0, 0x10000, 22]).getD 8 0).toNat
    ∧ (viewS4.set 10 0xF3).getD 10 0 &&& 0xF0 ≠ 0 ∧ (viewS4.set 53 0x10).getD 53 0 &&& 0xF0 ≠ 0 := by
  refine ⟨?_, ?_, ?_, ?_, ?_, fun j h1 h2 => ?_, ?_⟩
  · decide +kernel
  · decide +kernel
  · decide +kernel
  · decide +kernel
  · decide +kernel
  · have : ∀ j < 54, 10 ≤ j → viewS4.getD j 0 &&& 0xF0 = 0 := by decide +kernel
    exact this j h2 h1
  · decide +kernel

theorem witness_SnapshotRoundTrip : DecodedAgrees sA.regs ∧ AtcAligned sA ∧ sA.atc.length = 22
    ∧ exec .snapSave sA = .next (after .snapSave sA) ∧ (after .snapSave sA).reply = .ok (.bytes (viewBytes sA)) :=
  ⟨⟨by decide +kernel, by decide +kernel, by decide +kernel, by decide +kernel, by decide +kernel⟩,
    (by decide +kernel : ∀ e ∈ sA.atc, e.ltag &&& 0xFF = 0 ∧ e.ppage &&& 0xFF = 0), by decide +kernel,
    exec_after _ _, rfl⟩

/-- Reset values that are fixed: those of E0. -/
theorem witness_MmuResetValues : e0.params.resetSrp = .fixed 0 ∧ e0.params.resetCrp = .fixed 0
    ∧ e0.params.resetMmusr = .fixed 0 := by decide +kernel

theorem witness_ResetTranslatesToItself : exec .mmuReset sA = .next (after .mmuReset sA) := exec_after _ _

/-- The bank of a slot under E's MEMORY_MAP, as the table of `95_test_vectors.md` section 1.1 lists it. -/
theorem lastMapped_e (k : Nat) : lastMapped Params.exampleE.memoryMap k
    = if 0xB00 ≤ k ∧ k < 0xB04 then .videoMono else if k = 0x500 then .empty
      else if 0x480 ≤ k ∧ k < 0x500 then .empty else if 0x400 ≤ k ∧ k < 0x480 then .ram 0
      else if 0x200 ≤ k ∧ k < 0x300 then .io else if 0x100 ≤ k ∧ k < 0x200 then .rom
      else if k < 2 then .rom else .busErr := by
  have c : ∀ a b : Nat, (decide (a ≤ k) && decide (k < b)) = decide (a ≤ k ∧ k < b) := fun a b => by simp
  simp only [lastMapped, Params.exampleE, List.reverse_cons, List.reverse_nil, List.nil_append, List.cons_append,
    List.find?_cons, List.find?_nil, c, Nat.reduceAdd]
  by_cases h1 : 0xB00 ≤ k ∧ k < 0xB04
  · simp [h1]
  by_cases h2 : k = 0x500
  · subst h2; simp
  have h2' : ¬ (0x500 ≤ k ∧ k < 0x501) := by omega
  by_cases h3 : 0x480 ≤ k ∧ k < 0x500
  · simp only [h1, h2, h2', h3, and_self, decide_true, decide_false, if_true, if_false]
  by_cases h4 : 0x400 ≤ k ∧ k < 0x480
  · simp only [h1, h2, h2', h3, h4, and_self, decide_true, decide_false, if_true, if_false]
  by_cases h5 : 0x200 ≤ k ∧ k < 0x300
  · simp only [h1, h2, h2', h3, h4, h5, and_self, decide_true, decide_false, if_true, if_false]
  by_cases h6 : 0x100 ≤ k ∧ k < 0x200
  · simp only [h1, h2, h2', h3, h4, h5, h6, and_self, decide_true, decide_false, if_true, if_false]
  simp only [h1, h2, h2', h3, h4, h5, h6, decide_false, if_false]
  by_cases h7 : k < 2 <;> simp [h7]

/-- E is sound. -/
theorem sound_e : ConfigSound Params.exampleE where
  sizes := ⟨by
    intro r hr
    obtain rfl : r = _ := List.mem_singleton.mp hr
    exact ⟨23, rfl⟩, ⟨17, rfl⟩, ⟨18, rfl⟩, ⟨20, rfl⟩⟩
  banks := by
    intro r hr
    obtain rfl : r = _ := List.mem_singleton.mp hr
    decide
  apart := by
    intro i j r q hij hr hq
    have hi : i < 1 := (List.getElem?_eq_some_iff.mp hr).1
    have hj : j < 1 := (List.getElem?_eq_some_iff.mp hq).1
    omega
  calls := by
    intro c hc
    simp only [Params.exampleE, List.mem_cons, List.not_mem_nil, or_false] at hc
    rcases hc with rfl | rfl | rfl | rfl | rfl | rfl | rfl <;> simp [Params.exampleE]
  filled := by
    intro b r hr k hk
    have hb : b < 1 := (List.getElem?_eq_some_iff.mp hr).1
    obtain rfl : b = 0 := by omega
    obtain rfl := Option.some.inj hr
    simp only [InAllocation, BitVec.reduceToNat, Nat.reduceDiv, Nat.reduceAdd] at hk
    rw [lastMapped_e]
    simp only [BitVec.reduceToNat, Nat.reduceDiv, Nat.reduceAdd]
    by_cases h : k < 0x480
    · rw [if_neg (by omega), if_neg (by omega), if_neg (by omega), if_pos (by omega), if_pos h]
    · rw [if_neg (by omega), if_neg (by omega), if_pos (by omega), if_neg h]
  owners := by
    intro k hk he b
    have hi : (∃ r, Params.exampleE.ram[b]? = some r ∧ InAllocation r k) ↔ b = 0 ∧ 0x400 ≤ k ∧ k < 0x500 := by
      constructor
      · rintro ⟨r, hr, h⟩
        have hb : b < 1 := (List.getElem?_eq_some_iff.mp hr).1
        obtain rfl : b = 0 := by omega
        obtain rfl := Option.some.inj hr
        exact ⟨rfl, h⟩
      · rintro ⟨rfl, h⟩
        exact ⟨_, rfl, h⟩
    rw [hi, emptyOwnerAt]
    simp only [Params.exampleE, runsAt]
    rw [lastMapped_e] at he
    have : k = 0x500 ∨ (0x480 ≤ k ∧ k < 0x500) := by
      by_contra h
      simp only [not_or] at h
      rw [if_neg h.1, if_neg h.2] at he
      repeat' split at he
      all_goals simp at he
    rcases this with rfl | h
    · simp
    · rw [if_neg (by omega), if_pos (by omega)]
      simp; omega

/-- V-Z5 and V-Z7; every image of E is fixed. -/
theorem witness_ColdResetRebuilds : ConfigSound e0.loader
    ∧ (∃ r, e0.loader.ram[0]? = some r ∧ r.init = .fixed []) ∧ e0.loader.vmonoInit = .fixed []
    ∧ e0.loader.vcolorInit = .fixed [] ∧ imageByte e0.loader.romImage 7 = 0xF0 ∧ imageByte e0.loader.romImage 8 = 0
    ∧ ¬ ConfigSound { e0.loader with memoryMap := e0.loader.memoryMap ++ [⟨.busErr, 0x480, 1⟩] } :=
  ⟨sound_e, ⟨_, rfl, rfl⟩, rfl, rfl, by decide, by decide, fun h => by
    have := h.filled 0 _ rfl 0x480 ⟨by decide, by decide⟩
    exact absurd this (by decide +kernel)⟩

theorem witness_InvariantIsKept : Inv e0Called ∧ step e0Called = .next (after (.wrTc 0x80C0AA00) e0) :=
  ⟨{ decoded := ⟨rfl, rfl, rfl, rfl, rfl⟩
     stores := freshStores_wf _ _
     slots := legal_e0
     params := ⟨by decide +kernel, rfl⟩
     atc := rfl }, test_step⟩

end Sys2Proof.Tests
end

section
/-! PROOFS. The configuration check (R8, R503), one lemma for each function of `Sys2Proof/Machine/Layout.lean` that the
check is made of: what it says slot by slot. -/

namespace Sys2Proof.Machine

/-! ### Sizes, banks and MEMORY_MAP entries -/

theorem isPowerOfTwo_iff (n : Nat) : isPowerOfTwo n = true ↔ ∃ k, n = 2 ^ k := by
  simp only [isPowerOfTwo, Bool.and_eq_true, bne_iff_ne, beq_iff_eq]
  exact Nat.ne_zero_and_sub_one_eq_zero_iff_isPowerOfTwo

/-- The low 16 bits of a word, as a number. -/
theorem and_0xFFFF_eq_zero_iff (v : Word) : v &&& 0xFFFF = 0 ↔ v.toNat % 0x10000 = 0 := by
  rw [← BitVec.toNat_inj, BitVec.toNat_and]
  exact iff_of_eq (congrArg (· = 0) (Nat.and_two_pow_sub_one_eq_mod v.toNat 16))

theorem sizesOk_iff (p : Params) : sizesOk p = true ↔
    (∀ r ∈ p.ram, ∃ k, r.size = 2 ^ k) ∧ (∃ k, p.romSize = 2 ^ k) ∧ (∃ k, p.vmonoSize = 2 ^ k)
      ∧ (∃ k, p.vcolorSize = 2 ^ k) := by
  simp only [sizesOk, Bool.and_eq_true, List.all_eq_true, isPowerOfTwo_iff, and_assoc]

/-- What R503 requires of one RAM bank: the field `banks` of `ConfigSound`, for one bank. -/
def RamBankSound (r : RamBank) : Prop :=
  r.base.toNat % 0x10000 = 0 ∧ 0x10000 ≤ r.size ∧ r.size ≤ r.maxSlots * 0x10000
    ∧ r.base.toNat / 0x10000 + r.maxSlots ≤ 65536

/-- R503 asks for a power of two again, which R8 has asked for already. -/
theorem ramBankOk_iff {r : RamBank} (hsize : ∃ k, r.size = 2 ^ k) : ramBankOk r = true ↔ RamBankSound r := by
  simp only [ramBankOk, Bool.and_eq_true, decide_eq_true_eq, and_0xFFFF_eq_zero_iff, isPowerOfTwo_iff, hsize, and_true,
    and_assoc]
  rfl

theorem RamBankSound.size_div_le {r : RamBank} (h : RamBankSound r) : r.size / 0x10000 ≤ r.maxSlots := by
  obtain ⟨-, -, hfit, -⟩ := h
  omega

theorem RamBankSound.maxSlots_pos {r : RamBank} (h : RamBankSound r) : 0 < r.maxSlots := by
  obtain ⟨-, hmin, hfit, -⟩ := h
  omega

theorem legalBank_iff (p : Params) (b : BankRef) : legalBank p b = true ↔ ∀ n, b = .ram n → n < p.ram.length := by
  cases b <;> simp [legalBank]

theorem mapCallsOk_iff (p : Params) : mapCallsOk p = true ↔
    ∀ c ∈ p.memoryMap, c.start + c.count ≤ 65536 ∧ ∀ b, c.bank = .ram b → b < p.ram.length := by
  simp only [mapCallsOk, List.all_eq_true, Bool.and_eq_true, decide_eq_true_eq, legalBank_iff]
  rfl

/-! ### The table: the last writer wins -/

theorem lastMapped_append_singleton (calls : List MapCall) (c : MapCall) (k : Nat) :
    lastMapped (calls ++ [c]) k
      = if c.start ≤ k ∧ k < c.start + c.count then c.bank else lastMapped calls k := by
  by_cases h : c.start ≤ k ∧ k < c.start + c.count
  · simp [lastMapped, h]
  · have hc : (decide (c.start ≤ k) && decide (k < c.start + c.count)) = false := by simpa using h
    simp [lastMapped, hc, h]

/-- Folding MAP over the entries leaves in each slot the bank of the last entry that covers it. The fold's last entry is
the one that `lastMapped` looks at first, so the induction is from the end of the list. -/
theorem bankAt_buildSlots (p : Params) (k : Nat) : bankAt (buildSlots p) k = lastMapped p.memoryMap k := by
  rw [buildSlots]
  induction p.memoryMap using List.reverseRecOn with
  | nil => simp [bankAt, runsAt, lastMapped]
  | append_singleton calls c ih =>
    rw [List.foldl_append, List.foldl_cons, List.foldl_nil, bankAt_mapSlots, ih, lastMapped_append_singleton]

/-! ### Allocations -/

/-- Two RAM banks whose allocations have no slot in common. -/
def AllocationsDisjoint (r q : RamBank) : Prop := ∀ k, ¬ (InAllocation r k ∧ InAllocation q k)

theorem AllocationsDisjoint.symm {r q : RamBank} (h : AllocationsDisjoint r q) : AllocationsDisjoint q r :=
  fun k hk => h k hk.symm

/-- Two allocations that are not empty are one behind the other exactly when they have no slot in common: otherwise the
later of their first slots lies in both. -/
theorem allocationsApart_iff {r q : RamBank} (hr : 0 < r.maxSlots) (hq : 0 < q.maxSlots) :
    allocationsApart r q = true ↔ AllocationsDisjoint r q := by
  simp only [allocationsApart, Bool.or_eq_true, decide_eq_true_eq]
  simp only [AllocationsDisjoint, InAllocation, slotOf]
  constructor
  · intro h k hk
    omega
  · intro h
    have := h (max (r.base.toNat / 0x10000) (q.base.toNat / 0x10000))
    omega

theorem allApart_iff_pairwise (l : List RamBank) :
    allApart l = true ↔ l.Pairwise (fun r q => allocationsApart r q = true) := by
  induction l with
  | nil => simp [allApart]
  | cons r rs ih => simp only [allApart, Bool.and_eq_true, List.all_eq_true, ih, List.pairwise_cons]

theorem pairwise_allocationsDisjoint_iff (l : List RamBank) : l.Pairwise AllocationsDisjoint ↔
    ∀ (i j : Nat) (r q : RamBank), i ≠ j → l[i]? = some r → l[j]? = some q → AllocationsDisjoint r q := by
  rw [List.pairwise_iff_getElem]
  constructor
  · intro h i j r q hij hr hq
    obtain ⟨hi, rfl⟩ := List.getElem?_eq_some_iff.mp hr
    obtain ⟨hj, rfl⟩ := List.getElem?_eq_some_iff.mp hq
    rcases Nat.lt_or_gt_of_ne hij with hlt | hgt
    · exact h i j hi hj hlt
    · exact (h j i hj hi hgt).symm
  · intro h i j hi hj hij
    exact h i j _ _ (Nat.ne_of_lt hij) (List.getElem?_eq_getElem hi) (List.getElem?_eq_getElem hj)

/-- `allApart` says what it is for, since no sound bank's allocation is empty (R503). -/
theorem allApart_iff {l : List RamBank} (hbanks : ∀ r ∈ l, RamBankSound r) :
    allApart l = true ↔ l.Pairwise AllocationsDisjoint := by
  rw [allApart_iff_pairwise]
  exact List.Pairwise.iff_of_mem fun hr hq => allocationsApart_iff (hbanks _ hr).maxSlots_pos (hbanks _ hq).maxSlots_pos

/-- `allocationFilled` says what it is for, where the bank's size fits in its allocation (R503). -/
theorem allocationFilled_iff (slots : Runs BankRef) (b : Nat) {r : RamBank} (hfit : r.size / 0x10000 ≤ r.maxSlots) :
    allocationFilled slots b r = true ↔ ∀ k, InAllocation r k →
      bankAt slots k = if k < r.base.toNat / 0x10000 + r.size / 0x10000 then .ram b else .empty := by
  simp only [allocationFilled, Bool.and_eq_true, runsUniform_iff, runsAt_drop, slotOf, bankAt, InAllocation]
  constructor
  · rintro ⟨hram, hempty⟩ k ⟨hfirst, hlast⟩
    split
    · simpa [Nat.add_sub_cancel' hfirst] using hram (k - r.base.toNat / 0x10000) (by omega)
    · rename_i hk
      simpa [Nat.add_sub_cancel' (Nat.le_of_not_lt hk)]
        using hempty (k - (r.base.toNat / 0x10000 + r.size / 0x10000)) (by omega)
  · refine fun h => ⟨fun k hk => ?_, fun k hk => ?_⟩
    · rw [h _ (by omega), if_pos (by omega)]
    · rw [h _ (by omega), if_neg (by omega)]

theorem allocationsFilled_iff (slots : Runs BankRef) (n : Nat) (l : List RamBank) :
    allocationsFilled slots n l = true ↔
      ∀ (i : Nat) (r : RamBank), l[i]? = some r → allocationFilled slots (n + i) r = true := by
  induction l generalizing n with
  | nil => simp [allocationsFilled]
  | cons q qs ih =>
    simp only [allocationsFilled, Bool.and_eq_true, ih]
    constructor
    · rintro ⟨hq, hqs⟩ (_ | i) r hr
      · obtain rfl : q = r := by simpa using hr
        exact hq
      · rw [Nat.add_comm i, ← Nat.add_assoc]
        exact hqs i r (by simpa using hr)
    · refine fun h => ⟨h 0 q (by simp), fun i r hr => ?_⟩
      rw [Nat.add_assoc, Nat.add_comm 1]
      exact h (i + 1) r (by simpa using hr)

/-- `allocationsFilled` says what it is for, since a sound bank's size fits in its allocation (R503). -/
theorem allocationsFilled_buildSlots_iff {p : Params} (hbanks : ∀ r ∈ p.ram, RamBankSound r) :
    allocationsFilled (buildSlots p) 0 p.ram = true ↔
      ∀ (b : Nat) (r : RamBank), p.ram[b]? = some r → ∀ k, InAllocation r k →
        lastMapped p.memoryMap k
          = if k < r.base.toNat / 0x10000 + r.size / 0x10000 then BankRef.ram b else BankRef.empty := by
  simp only [allocationsFilled_iff, Nat.zero_add, ← bankAt_buildSlots]
  refine forall₃_congr fun b r hr => ?_
  exact allocationFilled_iff _ b (hbanks r (List.mem_of_getElem? hr)).size_div_le

/-! ### Owners -/

/-- Of allocations with no slot in common, the one a slot lies in is its owner. -/
theorem allocationOwners_eq_some_iff {l : List RamBank} (hl : l.Pairwise AllocationsDisjoint) (n k b : Nat) :
    runsAt none (allocationOwners n l) k = some b ↔ ∃ i r, l[i]? = some r ∧ b = n + i ∧ InAllocation r k := by
  induction l generalizing n with
  | nil => simp [allocationOwners, runsAt]
  | cons q qs ih =>
    obtain ⟨hq, hqs⟩ := List.pairwise_cons.mp hl
    rw [allocationOwners, runsAt_set]
    by_cases hk : InAllocation q k
    · have hset : slotOf q.base ≤ k ∧ k < slotOf q.base + q.maxSlots := hk
      rw [if_pos hset]
      constructor
      · intro hb
        exact ⟨0, q, by simp, (Option.some.inj hb).symm, hk⟩
      · rintro ⟨_ | i, r, hr, rfl, hrk⟩
        · rfl
        · have hmem : r ∈ qs := List.mem_of_getElem? (i := i) (by simpa using hr)
          exact absurd ⟨hk, hrk⟩ (hq r hmem k)
    · have hset : ¬ (slotOf q.base ≤ k ∧ k < slotOf q.base + q.maxSlots) := hk
      rw [if_neg hset, ih hqs]
      constructor
      · rintro ⟨i, r, hr, rfl, hrk⟩
        exact ⟨i + 1, r, by simpa using hr, by omega, hrk⟩
      · rintro ⟨_ | i, r, hr, rfl, hrk⟩
        · obtain rfl : q = r := by simpa using hr
          exact absurd hrk hk
        · exact ⟨i, r, by simpa using hr, by omega, hrk⟩

/-- R503 on EMPTY_OWNER: where the MEMORY_MAP is legal and the allocations are disjoint, the check on runs is the
requirement at every slot. -/
theorem emptyOwnersOk_buildSlots_iff {p : Params} (hcalls : mapCallsOk p = true)
    (hl : p.ram.Pairwise AllocationsDisjoint) :
    emptyOwnersOk (buildSlots p) p.emptyOwner (allocationOwners 0 p.ram) = true ↔
      ∀ k < 65536, lastMapped p.memoryMap k = .empty → ∀ b : Nat,
        emptyOwnerAt p k = some b ↔ ∃ r, p.ram[b]? = some r ∧ InAllocation r k := by
  have htotal : runsTotal (buildSlots p) = 65536 := (tableOk_build hcalls).1
  have howner : ∀ k b, runsAt none (allocationOwners 0 p.ram) k = some b ↔
      ∃ r, p.ram[b]? = some r ∧ InAllocation r k := fun k b => by
    simp [allocationOwners_eq_some_iff hl]
  rw [emptyOwnersOk_iff, htotal]
  refine forall₂_congr fun k _ => ?_
  rw [bankAt_buildSlots, Option.ext_iff]
  simp only [howner, emptyOwnerAt]

/-! ### The check -/

/-- Settles O58. Each part of the check is equivalent to a field of `ConfigSound`, given the fields before it: a bank's
checks rest on its size, the comparison of allocations and their filling on sound banks, the owners on a legal
MEMORY_MAP and disjoint allocations. -/
theorem configurationCheckIsR503 : Obligations.ConfigurationCheckIsR503 := by
  intro p
  simp only [configOk, Bool.and_eq_true, and_assoc]
  constructor
  · rintro ⟨hsizes, hbanks, hapart, hcalls, hfilled, howners⟩
    have sizes := (sizesOk_iff p).mp hsizes
    have banks : ∀ r ∈ p.ram, RamBankSound r := fun r hr =>
      (ramBankOk_iff (sizes.1 r hr)).mp (List.all_eq_true.mp hbanks r hr)
    have disjoint := (allApart_iff banks).mp hapart
    exact {
      sizes := sizes
      banks := banks
      apart := (pairwise_allocationsDisjoint_iff p.ram).mp disjoint
      calls := (mapCallsOk_iff p).mp hcalls
      filled := (allocationsFilled_buildSlots_iff banks).mp hfilled
      owners := (emptyOwnersOk_buildSlots_iff hcalls disjoint).mp howners }
  · intro h
    have banks : ∀ r ∈ p.ram, RamBankSound r := h.banks
    have disjoint := (pairwise_allocationsDisjoint_iff p.ram).mpr h.apart
    have hcalls := (mapCallsOk_iff p).mpr h.calls
    exact ⟨(sizesOk_iff p).mpr h.sizes,
      List.all_eq_true.mpr fun r hr => (ramBankOk_iff (h.sizes.1 r hr)).mpr (banks r hr),
      (allApart_iff banks).mpr disjoint, hcalls, (allocationsFilled_buildSlots_iff banks).mpr h.filled,
      (emptyOwnersOk_buildSlots_iff hcalls disjoint).mpr h.owners⟩

end Sys2Proof.Machine
end

section
/-! PROOFS. Every command in one shape: an operation, which answers and leaves a state, and its end (R13). With it, what
a step can be and what it keeps. -/

namespace Sys2Proof.Machine

/-! ### Commands as operations -/

/-- What a command does before its outcome is returned: its answer, and the state in which it is given. -/
def operation (i : Instr) (s : State) : Ans Result × State :=
  match i with
  | .wrTc v => (.ok .unit, logTcWrite (s.setRegs { s.regs with tcRaw := v, tc := decodeTc v }) v)
  | .wrSrp v => (.ok .unit, logWrite (s.setRegs { s.regs with srpRaw := v, srp := decodeRp v }) .srp v)
  | .wrCrp v => (.ok .unit, logWrite (s.setRegs { s.regs with crpRaw := v, crp := decodeRp v }) .crp v)
  | .wrTt0 v => (.ok .unit, logWrite (s.setRegs { s.regs with tt0Raw := v, tt0 := decodeTt v }) .tt0 (v.setWidth 64))
  | .wrTt1 v => (.ok .unit, logWrite (s.setRegs { s.regs with tt1Raw := v, tt1 := decodeTt v }) .tt1 (v.setWidth 64))
  | .wrMmusr v => (.ok .unit, logWrite (s.setRegs { s.regs with mmusrRaw := v }) .mmusr (v.setWidth 64))
  | .rdTc => (.ok (.value .long s.regs.tcRaw), s)
  | .rdSrp => (.ok (.value64 s.regs.srpRaw), s)
  | .rdCrp => (.ok (.value64 s.regs.crpRaw), s)
  | .rdTt0 => (.ok (.value .long s.regs.tt0Raw), s)
  | .rdTt1 => (.ok (.value .long s.regs.tt1Raw), s)
  | .rdMmusr => (.ok (.value .long (s.regs.mmusrRaw.setWidth 32)), s)
  | .translate acc la => mapAns .translation (translate la acc s)
  | .tt0Match acc la => (.ok (.code (ttResultCode (ttMatch s.params s.regs.tt0 la acc))), s)
  | .tt1Match acc la => (.ok (.code (ttResultCode (ttMatch s.params s.regs.tt1 la acc))), s)
  | .walk acc la => walkCommand acc la s
  | .atcLookup acc la => lookupCommand acc la s
  | .atcInsert sup dat ci wp m la pa => insertCommand sup dat ci wp m la pa s
  | .flushAll => (.ok .unit, atcFlush (fun _ => true) s)
  | .flushFc fc => (.ok .unit, atcFlush (fun e => e.valid && decide (e.fc = fc)) s)
  | .flushPage fc la => (.ok .unit, atcFlush (entryCovers s.regs.tc.pageMask fc la) s)
  | .lread8 sup dat la => mapAns (.value .byte) (logicalRead .byte la (readAccess sup dat) s)
  | .lread16 sup dat la => mapAns (.value .word) (logicalRead .word la (readAccess sup dat) s)
  | .lread32 sup dat la => mapAns (.value .long) (logicalRead .long la (readAccess sup dat) s)
  | .lwrite8 sup dat la v => logicalWrite .byte la (writeAccess sup dat) (v.setWidth 32) s
  | .lwrite16 sup dat la v => logicalWrite .word la (writeAccess sup dat) (v.setWidth 32) s
  | .lwrite32 sup dat la v => logicalWrite .long la (writeAccess sup dat) v s
  | .pread8 pa => mapAns (.value .byte) (physRead .byte pa s)
  | .pread16 pa => mapAns (.value .word) (physRead .word pa s)
  | .pread32 pa => mapAns (.value .long) (physRead .long pa s)
  | .pwrite8 pa v => physStore .byte pa (v.setWidth 32) s
  | .pwrite16 pa v => physStore .word pa (v.setWidth 32) s
  | .pwrite32 pa v => physStore .long pa v s
  | .toHost pa => mapAns .hostRef (bankToHost (bankAt s.slots (slotOf pa)) pa s, s)
  | .boundsCheck pa size => (.ok (.bool (bankBounds (bankAt s.slots (slotOf pa)) size s.params)), s)
  | .map bank start count => mapRange bank start count s
  | .regionName pa => (.ok (.name (bankName (bankAt s.slots (slotOf pa)) s.params)), s)
  | .queryDecoded => (.ok (.decoded (decodedView s.regs)), s)
  | .snapSave => (.ok (.bytes (viewBytes s)), s)
  | .snapRestore view => restore view s
  | .mmuReset => (.ok .unit, mmuReset s)
  | .coldReset => coldReset s

/-- What a fault of a command carries: that of a read where the command is one (R453). -/
def carriedBy : Instr → FaultRecord → Option Word
  | .pread8 _ | .pread16 _ | .pread32 _ | .lread8 _ _ _ | .lread16 _ _ _ | .lread32 _ _ _ => readCarries
  | _ => carriesNone

/-- Every command is its operation, ended in the one way R13 gives. -/
theorem exec_eq_deliver (i : Instr) (s : State) : exec i s = deliver (carriedBy i) (operation i s) := by
  cases i <;> rfl

/-! ### What the end of an operation leaves alone -/

/-- Two states with the same registers, ATC, dispatch table, stores and parameters in force: all that the invariant
speaks of. -/
structure SameMachine (s t : State) : Prop where
  regs : t.regs = s.regs
  atc : t.atc = s.atc
  slots : t.slots = s.slots
  stores : t.stores = s.stores
  params : t.params = s.params

theorem SameMachine.trans {s t u : State} (h : SameMachine s t) (g : SameMachine t u) : SameMachine s u where
  regs := g.regs.trans h.regs
  atc := g.atc.trans h.atc
  slots := g.slots.trans h.slots
  stores := g.stores.trans h.stores
  params := g.params.trans h.params

theorem deliver_sameMachine {c : FaultRecord → Option Word} {x : Ans Result × State} {t : State}
    (h : deliver c x = .next t) : SameMachine x.2 t := by
  obtain ⟨hregs, hatc, -, hslots, hstores, -, hparams, -⟩ := deliver_next h
  exact ⟨hregs, hatc, hslots, hstores, hparams⟩

theorem exec_sameMachine {i : Instr} {s t : State} (h : exec i s = .next t) : SameMachine (operation i s).2 t :=
  deliver_sameMachine (exec_eq_deliver i s ▸ h)

theorem takeCall_sameMachine (rest : List HostEvent) (pc : Word) (s : State) :
    SameMachine s (takeCall rest pc s) := ⟨rfl, rfl, rfl, rfl, rfl⟩

theorem rejectCall_sameMachine {r : Reject} {s t : State} (h : rejectCall r s = .next t) : SameMachine s t :=
  deliver_sameMachine (c := carriesNone) (x := (.refuse (rejectReason r), s)) h

/-- What a step can be: it changes nothing of the machine (a host event that is no call, a rejected call), or it runs
one operation in the state from which its call has been taken. -/
theorem step_cases {s t : State} (h : step s = .next t) :
    SameMachine s t ∨ ∃ i u, SameMachine s u ∧ exec i u = .next t := by
  unfold step at h
  split at h
  · cases h
  · rename_i words pc rest _
    have htake := takeCall_sameMachine rest pc s
    unfold runCall at h
    split at h
    · exact .inr ⟨_, _, htake, h⟩
    · exact .inl (htake.trans (rejectCall_sameMachine h))
  · cases h; exact .inl ⟨rfl, rfl, rfl, rfl, rfl⟩
  · cases h; exact .inl ⟨rfl, rfl, rfl, rfl, rfl⟩

/-- A property of the machine that every operation keeps is kept by every step. -/
theorem step_keeps {P : State → Prop} (hsame : ∀ {s t}, SameMachine s t → P s → P t)
    (hoperation : ∀ i s, P s → P (operation i s).2) {s t : State} (hs : P s) (h : step s = .next t) : P t := by
  rcases step_cases h with hst | ⟨i, u, hsu, hexec⟩
  · exact hsame hst hs
  · exact hsame (exec_sameMachine hexec) (hoperation i u (hsame hsu hs))

/-! ### Host events -/

/-- Settles O5. Each event's clause is the branch of `step` for it; a rejected call is ended as a refusal. -/
theorem stepTakesHostEvents : Obligations.StepTakesHostEvents := by
  intro s rest
  refine ⟨fun on => rfl, fun p => rfl, fun words pc r hr => ?_, rfl⟩
  change runCall words (takeCall rest pc s) = _
  rw [runCall, hr]
  rfl

end Sys2Proof.Machine
end

section
/-! PROOFS. What the operation of each command can leave: an access leaves `AccessFrame`, and each of the few commands
that go beyond it leaves one state. The statements about registers and the invariant are read off from that. -/

namespace Sys2Proof.Machine

/-! ### Accesses -/

/-- What a translation, a physical access, an insertion or a flush may do: write stores within their canonical form,
write ATC entries, add to the histories and take draws. -/
structure AccessFrame (s t : State) : Prop where
  regs : t.regs = s.regs
  slots : t.slots = s.slots
  params : t.params = s.params
  refused : t.refused = s.refused
  atcLength : t.atc.length = s.atc.length
  stores : StoresWf s.stores → StoresWf t.stores ∧ t.stores.ram.length = s.stores.ram.length

theorem AccessFrame.refl (s : State) : AccessFrame s s where
  regs := rfl
  slots := rfl
  params := rfl
  refused := rfl
  atcLength := rfl
  stores := fun hs => ⟨hs, rfl⟩

theorem AccessFrame.trans {s t u : State} (h : AccessFrame s t) (g : AccessFrame t u) : AccessFrame s u where
  regs := g.regs.trans h.regs
  slots := g.slots.trans h.slots
  params := g.params.trans h.params
  refused := g.refused.trans h.refused
  atcLength := g.atcLength.trans h.atcLength
  stores := fun hs =>
    have ⟨ht, hlength⟩ := h.stores hs
    have ⟨hu, hlength'⟩ := g.stores ht
    ⟨hu, hlength'.trans hlength⟩

theorem FetchFrame.accessFrame {s t : State} (h : FetchFrame s t) : AccessFrame s t where
  regs := h.regs
  slots := h.slots
  params := h.params
  refused := h.refused
  atcLength := congrArg List.length h.atc
  stores := fun hs => by rw [h.stores]; exact ⟨hs, rfl⟩

theorem atcInsert_accessFrame (la : Word) (fc : BitVec 3) (pa : Word) (ci wp m : Bool) (s : State) :
    AccessFrame s (atcInsert la fc pa ci wp m s) where
  regs := by simp
  slots := by simp
  params := by simp
  refused := by simp
  atcLength := by simp
  stores := fun hs => by simpa using hs

theorem atcFlush_accessFrame (pick : AtcEntry → Bool) (s : State) : AccessFrame s (atcFlush pick s) :=
  { AccessFrame.refl s with atcLength := List.length_map _ }

theorem ioReadState_accessFrame (w : Width) (pa : Word) (s : State) : AccessFrame s (ioReadState w pa s) :=
  { AccessFrame.refl s with }

theorem ioWriteState_accessFrame (w : Width) (pa v : Word) (s : State) : AccessFrame s (ioWriteState w pa v s) :=
  { AccessFrame.refl s with }

theorem log_accessFrame (e : DiagEvent) (s : State) : AccessFrame s (s.log e) :=
  { AccessFrame.refl s with }

theorem physRead_accessFrame (w : Width) (pa : Word) (s : State) : AccessFrame s (physRead w pa s).2 := by
  rw [physRead_state]
  split
  · exact ioReadState_accessFrame w pa s
  · exact .refl s

theorem physWrite_accessFrame (w : Width) (pa v : Word) (s : State) : AccessFrame s (physWrite w pa v s).2 := by
  rcases physWrite_state w pa v s with ⟨m, hm, h⟩ | h | h <;> rw [h]
  · exact { AccessFrame.refl s with stores := storeChange_wf hm }
  · exact log_accessFrame _ s
  · exact ioWriteState_accessFrame w pa v s

theorem translate_accessFrame (la : Word) (acc : Access) (s : State) : AccessFrame s (translate la acc s).2 := by
  have hwalk := (walk_frame la acc s).accessFrame
  rcases translate_state la acc s with h | h | ⟨r, -, h⟩ <;> rw [h]
  · exact .refl s
  · exact hwalk
  · exact hwalk.trans (atcInsert_accessFrame ..)

theorem logicalRead_accessFrame (w : Width) (la : Word) (acc : Access) (s : State) :
    AccessFrame s (logicalRead w la acc s).2 := by
  have htranslate := translate_accessFrame la acc s
  rcases logicalRead_state w la acc s with h | h | h | ⟨pa, h⟩ <;> rw [h]
  · exact .refl s
  · exact (locate_frame la acc s).accessFrame
  · exact htranslate
  · exact htranslate.trans (ioReadState_accessFrame w pa _)

theorem logicalWrite_accessFrame (w : Width) (la : Word) (acc : Access) (v : Word) (s : State) :
    AccessFrame s (logicalWrite w la acc v s).2 := by
  rcases logicalWrite_state w la acc v s with h | h | ⟨t, u, htranslate, h⟩ <;> rw [h]
  · exact .refl s
  · exact (locate_frame la acc s).accessFrame
  · have hu := translate_accessFrame la acc s
    rw [htranslate] at hu
    exact hu.trans (physWrite_accessFrame w t.pa v u)

theorem insertCommand_accessFrame (sup dat ci wp m : Bool) (la pa : Word) (s : State) :
    AccessFrame s (insertCommand sup dat ci wp m la pa s).2 := by
  unfold insertCommand
  split
  · exact .refl s
  · exact atcInsert_accessFrame ..

@[simp] theorem lookupCommand_snd (acc : Access) (la : Word) (s : State) : (lookupCommand acc la s).2 = s := by
  unfold lookupCommand; split <;> rfl

/-! ### Register writes -/

/-- The registers after each register write (R270 to R275). -/
inductive RegisterWrite (r : Registers) : Instr → Registers → Prop
  | tc (v : Word) : RegisterWrite r (.wrTc v) { r with tcRaw := v, tc := decodeTc v }
  | srp (v : Quad) : RegisterWrite r (.wrSrp v) { r with srpRaw := v, srp := decodeRp v }
  | crp (v : Quad) : RegisterWrite r (.wrCrp v) { r with crpRaw := v, crp := decodeRp v }
  | tt0 (v : Word) : RegisterWrite r (.wrTt0 v) { r with tt0Raw := v, tt0 := decodeTt v }
  | tt1 (v : Word) : RegisterWrite r (.wrTt1 v) { r with tt1Raw := v, tt1 := decodeTt v }
  | mmusr (v : Half) : RegisterWrite r (.wrMmusr v) { r with mmusrRaw := v }

/-- A write decodes the one register it writes (R37). -/
theorem RegisterWrite.decodedAgrees {r r' : Registers} {i : Instr} (h : RegisterWrite r i r') (hr : DecodedAgrees r) :
    DecodedAgrees r' := by
  obtain ⟨htc, hsrp, hcrp, htt0, htt1⟩ := hr
  cases h with
  | tc v => exact ⟨rfl, hsrp, hcrp, htt0, htt1⟩
  | srp v => exact ⟨htc, rfl, hcrp, htt0, htt1⟩
  | crp v => exact ⟨htc, hsrp, rfl, htt0, htt1⟩
  | tt0 v => exact ⟨htc, hsrp, hcrp, rfl, htt1⟩
  | tt1 v => exact ⟨htc, hsrp, hcrp, htt0, rfl⟩
  | mmusr v => exact ⟨htc, hsrp, hcrp, htt0, htt1⟩

/-- Each register and its decoded form are as they were, unless the command is that register's write. -/
def OthersUnchanged (i : Instr) (r r' : Registers) : Prop :=
  ((∀ v, i ≠ .wrTc v) → r'.tcRaw = r.tcRaw ∧ r'.tc = r.tc)
    ∧ ((∀ v, i ≠ .wrSrp v) → r'.srpRaw = r.srpRaw ∧ r'.srp = r.srp)
    ∧ ((∀ v, i ≠ .wrCrp v) → r'.crpRaw = r.crpRaw ∧ r'.crp = r.crp)
    ∧ ((∀ v, i ≠ .wrTt0 v) → r'.tt0Raw = r.tt0Raw ∧ r'.tt0 = r.tt0)
    ∧ ((∀ v, i ≠ .wrTt1 v) → r'.tt1Raw = r.tt1Raw ∧ r'.tt1 = r.tt1)
    ∧ ((∀ v, i ≠ .wrMmusr v) → r'.mmusrRaw = r.mmusrRaw)

theorem OthersUnchanged.refl (i : Instr) (r : Registers) : OthersUnchanged i r r := by
  simp [OthersUnchanged]

theorem RegisterWrite.othersUnchanged {r r' : Registers} {i : Instr} (h : RegisterWrite r i r') :
    OthersUnchanged i r r' := by
  cases h <;> simp [OthersUnchanged]

/-! ### Resets and restore -/

theorem registersAtReset_decodedAgrees (srp crp : Quad) (mmusr : Half) :
    DecodedAgrees (registersAtReset srp crp mmusr) := ⟨rfl, rfl, rfl, rfl, rfl⟩

theorem viewRegisters_decodedAgrees (view : List Word) : DecodedAgrees (viewRegisters view) := ⟨rfl, rfl, rfl, rfl, rfl⟩

/-- Every two words of a view are one entry. -/
theorem unpackAll_length : ∀ l : List Word, (unpackAll l).length = l.length / 2
  | [] => by simp [unpackAll]
  | [_] => by simp [unpackAll]
  | tag :: phys :: r => by
    have ih := unpackAll_length r
    simp only [unpackAll, List.length_cons]
    omega

theorem viewOk_length {view : List Word} (h : viewOk view = true) : view.length = 54 := by
  simp only [viewOk, Bool.and_eq_true, decide_eq_true_eq] at h
  obtain ⟨⟨⟨⟨hlength, -⟩, -⟩, -⟩, -⟩ := h
  exact hlength

/-- An accepted view holds the 22 entries (R421). -/
theorem viewOk_entries {view : List Word} (h : viewOk view = true) :
    (unpackAll (view.drop 10)).length = atcEntries := by
  rw [unpackAll_length, List.length_drop, viewOk_length h]; rfl

/-! ### What an operation leaves -/

/-- The state an accepted cold reset makes, before its MMU reset (R502). -/
def rebuilt (s : State) : State :=
  ((((s.setParams s.loader).setSlots (buildSlots s.loader)).setStores (freshStores s.loader s.draws)).takeDraws
    (storeDraws s.loader)).clearHistory

/-- What the operation of a command may leave of a state. -/
inductive Effect (s : State) : Instr → State → Prop
  | access {i : Instr} {t : State} (h : AccessFrame s t) : Effect s i t
  | register {i : Instr} {r : Registers} {t : State} (hr : RegisterWrite s.regs i r) (h : AccessFrame (s.setRegs r) t) :
      Effect s i t
  | map {bank : BankRef} {start count : Word} (hlegal : legalBank s.params bank = true)
      (hrange : start.toNat + count.toNat ≤ numSlots) :
      Effect s (.map bank start count) (s.setSlots (mapSlots s.slots start.toNat count.toNat bank))
  | restore {view : List Word} (hview : viewOk view = true) :
      Effect s (.snapRestore view) (((s.setRegs (viewRegisters view)).setAtc (unpackAll (view.drop 10))).setAtcNext 0)
  | mmuReset : Effect s .mmuReset (mmuReset s)
  | coldReset (hconfig : configOk s.loader = true) : Effect s .coldReset (mmuReset (rebuilt s))

theorem logTcWrite_accessFrame (s : State) (v : Word) : AccessFrame s (logTcWrite s v) := by
  unfold logTcWrite
  split
  · exact log_accessFrame _ s
  · exact (log_accessFrame _ s).trans (log_accessFrame _ _)

theorem mapRange_effect (bank : BankRef) (start count : Word) (s : State) :
    Effect s (.map bank start count) (mapRange bank start count s).2 := by
  unfold mapRange
  split
  · exact .access (.refl s)
  · rename_i hlegal
    split
    · exact .access (.refl s)
    · exact .map (by simpa using hlegal) (by omega)

theorem restore_effect (view : List Word) (s : State) : Effect s (.snapRestore view) (restore view s).2 := by
  unfold restore
  split
  · rename_i hview
    exact .restore hview
  · exact .access (.refl s)

theorem coldReset_effect (s : State) : Effect s .coldReset (coldReset s).2 := by
  unfold coldReset
  split
  · rename_i hconfig
    exact .coldReset hconfig
  · exact .access (.refl s)

theorem operation_effect (i : Instr) (s : State) : Effect s i (operation i s).2 := by
  cases i with
  | wrTc v => exact .register (.tc v) (logTcWrite_accessFrame _ v)
  | wrSrp v => exact .register (.srp v) (log_accessFrame _ _)
  | wrCrp v => exact .register (.crp v) (log_accessFrame _ _)
  | wrTt0 v => exact .register (.tt0 v) (log_accessFrame _ _)
  | wrTt1 v => exact .register (.tt1 v) (log_accessFrame _ _)
  | wrMmusr v => exact .register (.mmusr v) (log_accessFrame _ _)
  | map bank start count => exact mapRange_effect bank start count s
  | snapRestore view => exact restore_effect view s
  | mmuReset => exact .mmuReset
  | coldReset => exact coldReset_effect s
  | walk acc la => exact .access (walkCommand_frame acc la s).accessFrame
  | atcInsert sup dat ci wp m la pa => exact .access (insertCommand_accessFrame ..)
  | flushAll | flushFc | flushPage => exact .access (atcFlush_accessFrame _ s)
  | translate acc la => exact .access (by simpa [operation] using translate_accessFrame la acc s)
  | lread8 | lread16 | lread32 => exact .access (by simpa [operation] using logicalRead_accessFrame ..)
  | lwrite8 | lwrite16 | lwrite32 => exact .access (logicalWrite_accessFrame ..)
  | pread8 | pread16 | pread32 => exact .access (by simpa [operation] using physRead_accessFrame ..)
  | pwrite8 | pwrite16 | pwrite32 => exact .access (by simpa [operation, physStore] using physWrite_accessFrame ..)
  | toHost pa => exact .access (by simpa [operation] using AccessFrame.refl s)
  | atcLookup acc la => exact .access (by rw [operation, lookupCommand_snd]; exact .refl s)
  | rdTc | rdSrp | rdCrp | rdTt0 | rdTt1 | rdMmusr | tt0Match | tt1Match | boundsCheck | regionName | queryDecoded
  | snapSave => exact .access (.refl s)

/-! ### The registers -/

theorem Effect.decodedAgrees {i : Instr} {s t : State} (h : Effect s i t) (hs : DecodedAgrees s.regs) :
    DecodedAgrees t.regs := by
  cases h with
  | access h => rw [h.regs]; exact hs
  | register hr h => rw [h.regs]; exact hr.decodedAgrees hs
  | map => exact hs
  | restore => exact viewRegisters_decodedAgrees _
  | mmuReset => exact registersAtReset_decodedAgrees ..
  | coldReset => exact registersAtReset_decodedAgrees ..

/-- Settles O14: the decoded registers are part of the machine, and every operation keeps their agreement. -/
theorem decodedRegistersAgreeKept : Obligations.DecodedRegistersAgreeKept := fun _ _ hs h =>
  step_keeps (P := fun s => DecodedAgrees s.regs) (fun hst hs => by rw [hst.regs]; exact hs)
    (fun i s => (operation_effect i s).decodedAgrees) hs h

/-- The commands that do not set every register change at most the register they write. -/
theorem Effect.othersUnchanged {i : Instr} {s t : State} (h : Effect s i t) (hi : setsAllRegisters i = false) :
    OthersUnchanged i s.regs t.regs := by
  cases h with
  | access h => rw [h.regs]; exact .refl i s.regs
  | register hr h => rw [h.regs]; exact hr.othersUnchanged
  | map => exact .refl _ s.regs
  | restore => simp [setsAllRegisters] at hi
  | mmuReset => simp [setsAllRegisters] at hi
  | coldReset => simp [setsAllRegisters] at hi

/-- Settles O13: the operation changes at most the register that it writes, and its end changes none. -/
theorem registersChangeOnlyByTheirWrites : Obligations.RegistersChangeOnlyByTheirWrites := by
  intro i s t h hi
  have hothers := (operation_effect i s).othersUnchanged hi
  rw [← (exec_sameMachine h).regs] at hothers
  exact hothers

/-! ### The invariant -/

theorem Inv.of_sameMachine {s t : State} (h : SameMachine s t) (hs : Inv s) : Inv t where
  decoded := by rw [h.regs]; exact hs.decoded
  stores := by rw [h.stores]; exact hs.stores
  slots := by rw [SlotsCovered, h.slots, h.params]; exact hs.slots
  params := by rw [ParamsInForce, h.params, h.stores]; exact hs.params
  atc := by rw [AtcSized, h.atc]; exact hs.atc

theorem AccessFrame.inv {s t : State} (h : AccessFrame s t) (hs : Inv s) : Inv t where
  decoded := by rw [h.regs]; exact hs.decoded
  stores := (h.stores hs.stores).1
  slots := by rw [SlotsCovered, h.slots, h.params]; exact hs.slots
  params := by rw [ParamsInForce, h.params, (h.stores hs.stores).2]; exact hs.params
  atc := h.atcLength.trans hs.atc

theorem mmuReset_inv {s : State} (hstores : StoresWf s.stores) (hslots : SlotsCovered s) (hparams : ParamsInForce s) :
    Inv (mmuReset s) where
  decoded := registersAtReset_decodedAgrees ..
  stores := hstores
  slots := hslots
  params := hparams
  atc := List.length_replicate

/-- What a cold reset builds from an accepted configuration meets the parts of the invariant that MMU_RESET leaves as
they are (R502, R503). -/
theorem rebuilt_inv {s : State} (h : configOk s.loader = true) :
    StoresWf (rebuilt s).stores ∧ SlotsCovered (rebuilt s) ∧ ParamsInForce (rebuilt s) :=
  ⟨freshStores_wf .., tableOk_build (mapCallsOk_of_configOk h), h, freshRam_length ..⟩

theorem Effect.inv {i : Instr} {s t : State} (h : Effect s i t) (hs : Inv s) : Inv t := by
  cases h with
  | access h => exact h.inv hs
  | register hr h =>
    have hwritten : Inv (s.setRegs _) := { hs with decoded := hr.decodedAgrees hs.decoded }
    exact h.inv hwritten
  | map hlegal hrange => exact { hs with slots := tableOk_map hs.slots hrange hlegal }
  | restore hview => exact { hs with decoded := viewRegisters_decodedAgrees _, atc := viewOk_entries hview }
  | mmuReset => exact mmuReset_inv hs.stores hs.slots hs.params
  | coldReset hconfig =>
    obtain ⟨hstores, hslots, hparams⟩ := rebuilt_inv hconfig
    exact mmuReset_inv hstores hslots hparams

/-- Settles O60: every operation keeps the invariant, which speaks of the machine alone. -/
theorem invariantIsKept : Obligations.InvariantIsKept := fun _ _ hs h =>
  step_keeps Inv.of_sameMachine (fun i s => (operation_effect i s).inv) hs h

theorem configOk_exampleE : configOk Params.exampleE = true := by decide

theorem AtcEntry.zero_aligned : AtcEntry.zero.ltag &&& 0xFF = 0 ∧ AtcEntry.zero.ppage &&& 0xFF = 0 := by decide

/-- Settles O59: the reset state is built as COLD_RESET builds one, from the configuration E, which is accepted. -/
theorem invariantHoldsAtReset : Obligations.InvariantHoldsAtReset := by
  refine ⟨?_, fun e he => List.eq_of_mem_replicate he ▸ AtcEntry.zero_aligned⟩
  exact {
    decoded := registersAtReset_decodedAgrees ..
    stores := freshStores_wf ..
    slots := tableOk_build (mapCallsOk_of_configOk configOk_exampleE)
    params := ⟨configOk_exampleE, freshRam_length ..⟩
    atc := List.length_replicate }

end Sys2Proof.Machine
end

section
/-! PROOFS. Refusals (R49, R461): a refused operation leaves what a walk recorded before it, and nothing at all where the
command does no walk. -/

namespace Sys2Proof.Machine

variable {α β : Type}

/-! ### A refused part of an operation -/

/-- Where a part of an operation is refused, a property of the state holds. -/
structure OnRefusal (P : State → Prop) (x : Ans α × State) : Prop where
  leaves : ∀ r, x.1 = .refuse r → P x.2

section
variable {P : State → Prop}

theorem OnRefusal.of_ok {a : α} {s : State} : OnRefusal P (.ok a, s) := ⟨nofun⟩

theorem OnRefusal.of_fault {f : FaultRecord} {s : State} : OnRefusal P ((.fault f, s) : Ans α × State) := ⟨nofun⟩

theorem OnRefusal.of_state {x : Ans α × State} (h : P x.2) : OnRefusal P x := ⟨fun _ _ => h⟩

theorem OnRefusal.inFrame {x : Ans α × State} {s u : State} (h : OnRefusal (· = u) x) (hu : FetchFrame s u) :
    OnRefusal (FetchFrame s) x :=
  ⟨fun r hr => h.leaves r hr ▸ hu⟩

theorem mapAns_fst_refuse {f : α → β} {x : Ans α × State} {r : RefuseReason} :
    (mapAns f x).1 = .refuse r ↔ x.1 = .refuse r := by
  obtain ⟨_ | _ | _, s⟩ := x <;> simp

theorem mapFault_fst_refuse {f : FaultRecord → FaultRecord} {x : Ans α × State} {r : RefuseReason} :
    (mapFault f x).1 = .refuse r ↔ x.1 = .refuse r := by
  obtain ⟨_ | _ | _, s⟩ := x <;> simp

theorem OnRefusal.mapAns {f : α → β} {x : Ans α × State} (h : OnRefusal P x) : OnRefusal P (mapAns f x) :=
  ⟨fun r hr => by rw [mapAns_snd]; exact h.leaves r (mapAns_fst_refuse.mp hr)⟩

end

/-! ### Physical accesses -/

/-- The one bank whose reads change the state, I/O, refuses none (R237). -/
theorem physRead_refusedInPlace (w : Width) (pa : Word) (s : State) : OnRefusal (· = s) (physRead w pa s) := by
  by_cases hio : bankAt s.slots (slotOf pa) = .io
  · rw [physRead, hio]
    dsimp only [bankRead, ioRead]
    split
    · exact .of_fault
    · exact .of_ok
  · exact .of_state (by rw [physRead_state, if_neg hio])

theorem commitStore_refusedInPlace (s : State) (put : Memory → State) (x : Ans Memory) :
    OnRefusal (· = s) (commitStore s put x) := by
  cases x with
  | ok m => exact .of_ok
  | fault f => exact .of_fault
  | refuse r => exact .of_state rfl

theorem ramWrite_refusedInPlace (b : Nat) (w : Width) (pa v : Word) (s : State) :
    OnRefusal (· = s) (ramWrite b w pa v s) := by
  unfold ramWrite
  split
  · exact commitStore_refusedInPlace ..
  · exact .of_state rfl

theorem emptyRedirect_refusedInPlace (b : Nat) (pa v : Word) (s : State) :
    OnRefusal (· = s) (emptyRedirect b pa v s) := by
  unfold emptyRedirect
  split
  · split
    · exact .of_state rfl
    · exact .of_ok
  · exact .of_state rfl

theorem emptyWrite_refusedInPlace (w : Width) (pa v : Word) (s : State) : OnRefusal (· = s) (emptyWrite w pa v s) := by
  unfold emptyWrite
  split
  · exact .of_fault
  · exact .of_fault
  · split
    · exact .of_fault
    · exact emptyRedirect_refusedInPlace ..

theorem ioWrite_refusedInPlace (w : Width) (pa v : Word) (s : State) : OnRefusal (· = s) (ioWrite w pa v s) := by
  unfold ioWrite
  split
  · exact .of_fault
  · exact .of_ok

theorem physWrite_refusedInPlace (w : Width) (pa v : Word) (s : State) : OnRefusal (· = s) (physWrite w pa v s) := by
  unfold physWrite bankWrite
  cases bankAt s.slots (slotOf pa) with
  | ram b => exact ramWrite_refusedInPlace ..
  | rom => exact .of_ok
  | videoMono => exact commitStore_refusedInPlace ..
  | videoColor => exact commitStore_refusedInPlace ..
  | empty => exact emptyWrite_refusedInPlace ..
  | busErr => exact .of_fault
  | io => exact ioWrite_refusedInPlace ..

theorem physStore_refusedInPlace (w : Width) (pa v : Word) (s : State) : OnRefusal (· = s) (physStore w pa v s) :=
  (physWrite_refusedInPlace w pa v s).mapAns

/-! ### Translated accesses -/

/-- A physical access that an insertion before it does not make refused is not refused after it, so that a refused
physical stage is one whose check before the insertion refused (R461, log entry 19). -/
theorem physicalStage_refusedInPlace {la : Word} {acc : Access} {t : Translation} {f : State → Ans α × State}
    {s : State} (hinsert : ∀ r, (f (fillAtc la acc t s)).1 = .refuse r → (f s).1 = .refuse r) :
    OnRefusal (· = s) (physicalStage la acc t f s) := by
  rcases physicalStage_cases la acc t f s with ⟨r, -, h⟩ | ⟨hrun, h⟩ <;> rw [h]
  · exact .of_state rfl
  · exact ⟨fun r hr => absurd (hinsert r (mapFault_fst_refuse.mp hr)) (hrun r)⟩

/-- A physical access of a translated address: refused by the translation or by the access, it leaves what the walk
recorded. -/
theorem locate_physicalStage_refusedInFrame {la : Word} {acc : Access} {f : Translation → State → Ans α × State}
    (hinsert : ∀ t u r, (f t (fillAtc la acc t u)).1 = .refuse r → (f t u).1 = .refuse r) (s : State) :
    OnRefusal (FetchFrame s) (andThen (locate la acc s) fun t u => physicalStage la acc t (f t) u) := by
  have hlocate := locate_frame la acc s
  rcases hx : locate la acc s with ⟨t | e | r, u⟩ <;> rw [hx] at hlocate
  · exact (physicalStage_refusedInPlace (hinsert t u)).inFrame hlocate
  · exact .of_state hlocate
  · exact .of_state hlocate

theorem logicalRead_refusedInFrame (w : Width) (la : Word) (acc : Access) (s : State) :
    OnRefusal (FetchFrame s) (logicalRead w la acc s) := by
  unfold logicalRead
  split
  · exact .of_state (.refl s)
  · refine locate_physicalStage_refusedInFrame (fun t u r => ?_) s
    obtain ⟨hslots, hstores, hparams, hoverlay⟩ := fillAtc_frame la acc t u
    exact (physRead_refuse_congr hslots hstores hparams hoverlay r).mp

theorem logicalWrite_refusedInFrame (w : Width) (la : Word) (acc : Access) (v : Word) (s : State) :
    OnRefusal (FetchFrame s) (logicalWrite w la acc v s) := by
  unfold logicalWrite
  split
  · exact .of_state (.refl s)
  · refine locate_physicalStage_refusedInFrame (fun t u r hr => ?_) s
    obtain ⟨hslots, hstores, hparams, -⟩ := fillAtc_frame la acc t u
    have hwrite := mapAns_fst_refuse.mp hr
    exact mapAns_fst_refuse.mpr ((physWrite_refuse_congr hslots hstores hparams r).mp hwrite)

/-- A translation is refused before its insertion. -/
theorem translate_refusedInFrame (la : Word) (acc : Access) (s : State) :
    OnRefusal (FetchFrame s) (translate la acc s) := by
  have hlocate := locate_frame la acc s
  unfold translate
  rcases hx : locate la acc s with ⟨t | e | r, u⟩ <;> rw [hx] at hlocate
  · exact .of_ok
  · exact .of_state hlocate
  · exact .of_state hlocate

/-! ### Commands -/

theorem insertCommand_refusedInPlace (sup dat ci wp m : Bool) (la pa : Word) (s : State) :
    OnRefusal (· = s) (insertCommand sup dat ci wp m la pa s) := by
  unfold insertCommand
  split
  · exact .of_state rfl
  · exact .of_ok

theorem mapRange_refusedInPlace (bank : BankRef) (start count : Word) (s : State) :
    OnRefusal (· = s) (mapRange bank start count s) := by
  unfold mapRange
  split
  · exact .of_state rfl
  · split
    · exact .of_state rfl
    · exact .of_ok

theorem restore_refusedInPlace (view : List Word) (s : State) : OnRefusal (· = s) (restore view s) := by
  unfold restore
  split
  · exact .of_ok
  · exact .of_state rfl

theorem coldReset_refusedInPlace (s : State) : OnRefusal (· = s) (coldReset s) := by
  unfold coldReset
  split
  · exact .of_ok
  · exact .of_state rfl

theorem operation_refusedInPlace {i : Instr} (h : mayWalk i = false) (s : State) :
    OnRefusal (· = s) (operation i s) := by
  cases i with
  | translate | walk | lread8 | lread16 | lread32 | lwrite8 | lwrite16 | lwrite32 => simp [mayWalk] at h
  | wrTc | wrSrp | wrCrp | wrTt0 | wrTt1 | wrMmusr | flushAll | flushFc | flushPage | mmuReset => exact .of_ok
  | rdTc | rdSrp | rdCrp | rdTt0 | rdTt1 | rdMmusr | tt0Match | tt1Match | boundsCheck | regionName | queryDecoded
  | snapSave => exact .of_ok
  | atcLookup acc la => exact .of_state (lookupCommand_snd acc la s)
  | atcInsert => exact insertCommand_refusedInPlace ..
  | pread8 | pread16 | pread32 => exact (physRead_refusedInPlace ..).mapAns
  | pwrite8 | pwrite16 | pwrite32 => exact physStore_refusedInPlace ..
  | toHost => exact .of_state (mapAns_snd ..)
  | map => exact mapRange_refusedInPlace ..
  | snapRestore view => exact restore_refusedInPlace view s
  | coldReset => exact coldReset_refusedInPlace s

theorem operation_refusedInFrame (i : Instr) (s : State) : OnRefusal (FetchFrame s) (operation i s) := by
  cases hwalk : mayWalk i with
  | false => exact (operation_refusedInPlace hwalk s).inFrame (.refl s)
  | true =>
    cases i with
    | translate acc la => exact (translate_refusedInFrame la acc s).mapAns
    | walk acc la => exact .of_state (walkCommand_frame acc la s)
    | lread8 | lread16 | lread32 => exact (logicalRead_refusedInFrame ..).mapAns
    | lwrite8 | lwrite16 | lwrite32 => exact logicalWrite_refusedInFrame ..
    | _ => simp [mayWalk] at hwalk

/-! ### The mark -/

/-- No operation but an accepted cold reset writes the mark before its end. -/
theorem Effect.refused {i : Instr} {s t : State} (h : Effect s i t) (hi : i ≠ .coldReset) : t.refused = s.refused := by
  cases h with
  | access h => exact h.refused
  | register hr h => exact h.refused
  | map | restore | mmuReset => rfl
  | coldReset => exact absurd rfl hi

theorem coldReset_refused {s : State} (h : ∀ r, (coldReset s).1 ≠ .refuse r) : (coldReset s).2.refused = false := by
  by_cases hconfig : configOk s.loader = true
  · rw [coldReset, if_pos hconfig]; rfl
  · exact absurd (by rw [coldReset, if_neg hconfig]) (h .config)

theorem operation_refused {i : Instr} {s : State} (h : ∀ r, (operation i s).1 ≠ .refuse r) :
    (operation i s).2.refused = if i = .coldReset then false else s.refused := by
  split
  · rename_i hi
    subst hi
    exact coldReset_refused h
  · rename_i hi
    exact (operation_effect i s).refused hi

/-- Settles O50: a refusal of a command is that of its operation, and only the end of an operation sets the mark. -/
theorem refusalsMarkAndChangeNothing : Obligations.RefusalsMarkAndChangeNothing := by
  intro i s t h
  rw [exec_eq_deliver] at h
  rcases deliver_cases (carriedBy i) (operation i s) with ⟨a, ha, hd⟩ | ⟨f, hf, hd⟩ | ⟨r, hr, hd⟩ <;>
    rw [hd] at h <;> cases h
  · exact ⟨nofun, fun _ => operation_refused (by simp [ha])⟩
  · exact ⟨nofun, fun _ => operation_refused (by simp [hf])⟩
  · refine ⟨fun r' hr' => ?_, fun hno => absurd rfl (hno r)⟩
    cases hr'
    exact ⟨rfl, (operation i s).2, (operation_refusedInFrame i s).leaves r hr, rfl,
      fun hwalk => (operation_refusedInPlace hwalk s).leaves r hr⟩

end Sys2Proof.Machine
end

section
/-! PROOFS. No part of an operation reads `diag_log` (R48, R462): run in a state with another log, it gives the same answer
and the same state but for the log. -/

namespace Sys2Proof.Machine

variable {α β : Type}

/-! ### States that differ in the log -/

/-- The state with another `diag_log`. -/
def State.withLog (s : State) (l : List DiagEvent) : State := { s with diagLog := l }

section
variable (s : State) (l : List DiagEvent)

@[simp] theorem State.withLog_atc : (s.withLog l).atc = s.atc := rfl
@[simp] theorem State.withLog_slots : (s.withLog l).slots = s.slots := rfl
@[simp] theorem State.withLog_stores : (s.withLog l).stores = s.stores := rfl
@[simp] theorem State.withLog_params : (s.withLog l).params = s.params := rfl

end

/-- Two parts of operations give the same answer, and states that differ at most in the log. -/
structure SameButLog (x y : Ans α × State) : Prop where
  answer : y.1 = x.1
  state : ∃ l, y.2 = x.2.withLog l

theorem SameButLog.eq {x y : Ans α × State} (h : SameButLog x y) : ∃ l, y = (x.1, x.2.withLog l) := by
  obtain ⟨l, hl⟩ := h.state
  exact ⟨l, Prod.ext h.answer hl⟩

theorem SameButLog.withLog (a : Ans α) (s : State) (l : List DiagEvent) : SameButLog (a, s) (a, s.withLog l) :=
  ⟨rfl, l, rfl⟩

/-- Sequencing: the second parts are the same in every two states that differ in the log. -/
theorem SameButLog.andThen {x y : Ans α × State} {f g : α → State → Ans β × State} (h : SameButLog x y)
    (hfg : ∀ a s l, SameButLog (f a s) (g a (s.withLog l))) : SameButLog (andThen x f) (andThen y g) := by
  obtain ⟨l, rfl⟩ := h.eq
  obtain ⟨answer, s⟩ := x
  cases answer with
  | ok a => exact hfg a s l
  | fault f => exact .withLog ..
  | refuse r => exact .withLog ..

theorem SameButLog.mapAns {x y : Ans α × State} (f : α → β) (h : SameButLog x y) :
    SameButLog (mapAns f x) (mapAns f y) := h.andThen fun _ _ _ => .withLog ..

theorem SameButLog.mapFault {x y : Ans α × State} (f : FaultRecord → FaultRecord) (h : SameButLog x y) :
    SameButLog (mapFault f x) (mapFault f y) := by
  obtain ⟨l, rfl⟩ := h.eq
  obtain ⟨answer, s⟩ := x
  cases answer <;> exact .withLog ..

theorem SameButLog.ite {c c' : Prop} [Decidable c] [Decidable c'] {x x' y y' : Ans α × State} (hc : c ↔ c')
    (hx : SameButLog x x') (hy : SameButLog y y') :
    SameButLog (if c then x else y) (if c' then x' else y') := by
  by_cases h : c
  · rw [if_pos h, if_pos (hc.mp h)]; exact hx
  · rw [if_neg h, if_neg (mt hc.mpr h)]; exact hy

/-- The end of an operation appends to the log what the operation answered (R452), whatever the log holds. -/
theorem SameButLog.deliver {x y : Ans Result × State} (h : SameButLog x y) {c : FaultRecord → Option Word} {t : State}
    (ht : deliver c x = .next t) : ∃ l, deliver c y = .next (t.withLog l) := by
  obtain ⟨l, rfl⟩ := h.eq
  obtain ⟨answer, s⟩ := x
  cases answer <;> cases ht <;> exact ⟨_, rfl⟩

/-! ### Physical reads and writes -/

section
variable (w : Width) (pa v : Word) (s : State) (l : List DiagEvent)

theorem ramRead_sameButLog (b : Nat) : SameButLog (ramRead b w pa s) (ramRead b w pa (s.withLog l)) := by
  simp only [ramRead, State.withLog_params, State.withLog_stores]
  split <;> exact .withLog ..

theorem overlayRead_sameButLog : SameButLog (overlayRead w pa s) (overlayRead w pa (s.withLog l)) := by
  simp only [overlayRead, State.withLog_params, State.withLog_slots]
  split
  · exact ramRead_sameButLog ..
  · exact .withLog ..

theorem romRead_sameButLog : SameButLog (romRead w pa s) (romRead w pa (s.withLog l)) := by
  unfold romRead
  exact .ite Iff.rfl (overlayRead_sameButLog w pa s l) (.withLog ..)

theorem emptyRead_sameButLog : SameButLog (emptyRead w pa s) (emptyRead w pa (s.withLog l)) := by
  cases w <;> exact .withLog ..

theorem ioRead_sameButLog : SameButLog (ioRead w pa s) (ioRead w pa (s.withLog l)) := by
  unfold ioRead
  exact .ite Iff.rfl (.withLog _ (ioReadState w pa s) l) (.withLog _ (ioReadState w pa s) l)

theorem physRead_sameButLog : SameButLog (physRead w pa s) (physRead w pa (s.withLog l)) := by
  simp only [physRead, State.withLog_slots]
  cases bankAt s.slots (slotOf pa) with
  | ram b => exact ramRead_sameButLog ..
  | rom => exact romRead_sameButLog ..
  | videoMono | videoColor | busErr => exact .withLog ..
  | empty => exact emptyRead_sameButLog ..
  | io => exact ioRead_sameButLog ..

theorem commitStore_sameButLog {put put' : Memory → State} (hput : ∀ m, put' m = (put m).withLog l) (x : Ans Memory) :
    SameButLog (commitStore s put x) (commitStore (s.withLog l) put' x) := by
  cases x with
  | ok m => exact ⟨rfl, l, hput m⟩
  | fault f => exact .withLog ..
  | refuse r => exact .withLog ..

theorem ramWrite_sameButLog (b : Nat) : SameButLog (ramWrite b w pa v s) (ramWrite b w pa v (s.withLog l)) := by
  simp only [ramWrite, State.withLog_params, State.withLog_stores]
  split
  · exact commitStore_sameButLog s l (fun _ => rfl) _
  · exact .withLog ..

theorem romWrite_sameButLog : SameButLog (romWrite w pa v s) (romWrite w pa v (s.withLog l)) :=
  ⟨rfl, l ++ [.romWriteDiscarded w pa v s.diagPc], rfl⟩

theorem emptyRedirect_sameButLog (b : Nat) :
    SameButLog (emptyRedirect b pa v s) (emptyRedirect b pa v (s.withLog l)) := by
  simp only [emptyRedirect, State.withLog_params, State.withLog_stores]
  split
  · exact .ite Iff.rfl (.withLog ..) (.withLog _ (s.setRamStore b _) l)
  · exact .withLog ..

theorem emptyWrite_sameButLog : SameButLog (emptyWrite w pa v s) (emptyWrite w pa v (s.withLog l)) := by
  cases w with
  | byte | word => exact .withLog ..
  | long =>
    simp only [emptyWrite, State.withLog_params]
    split
    · exact .withLog ..
    · exact emptyRedirect_sameButLog ..

theorem ioWrite_sameButLog : SameButLog (ioWrite w pa v s) (ioWrite w pa v (s.withLog l)) := by
  unfold ioWrite
  exact .ite Iff.rfl (.withLog _ (ioWriteState w pa v s) l) (.withLog _ (ioWriteState w pa v s) l)

theorem physWrite_sameButLog : SameButLog (physWrite w pa v s) (physWrite w pa v (s.withLog l)) := by
  simp only [physWrite, State.withLog_slots]
  cases bankAt s.slots (slotOf pa) with
  | ram b => exact ramWrite_sameButLog ..
  | rom => exact romWrite_sameButLog ..
  | videoMono | videoColor => exact commitStore_sameButLog s l (fun _ => rfl) _
  | empty => exact emptyWrite_sameButLog ..
  | busErr => exact .withLog ..
  | io => exact ioWrite_sameButLog ..

theorem physStore_sameButLog : SameButLog (physStore w pa v s) (physStore w pa v (s.withLog l)) :=
  (physWrite_sameButLog w pa v s l).mapAns _

theorem bankToHost_withLog (bank : BankRef) : bankToHost bank pa (s.withLog l) = bankToHost bank pa s := by
  cases bank <;> rfl

end

/-! ### The walk -/

section
variable (la : Word) (acc : Access) (s : State) (l : List DiagEvent)

theorem fetchLong_sameButLog (level : Level) (a : Word) :
    SameButLog (fetchLong la acc level a s) (fetchLong la acc level a (s.withLog l)) :=
  (physRead_sameButLog .long a s l).mapFault _

theorem fetchDesc_sameButLog (level : Level) (a : Word) (size : DescSize) (pos : DescPos) :
    SameButLog (fetchDesc la acc level a size pos s) (fetchDesc la acc level a size pos (s.withLog l)) := by
  refine (fetchLong_sameButLog la acc s l level a).andThen fun d0 s1 l1 => ?_
  cases size with
  | four => exact .withLog ..
  | eight => exact (fetchLong_sameButLog la acc s1 l1 level (a + 4)).andThen fun _ _ _ => .withLog ..

theorem limitCheck_sameButLog (level : Level) (idx : Word) (lim : Limit) (a : Word) :
    SameButLog (limitCheck la acc level idx lim a s) (limitCheck la acc level idx lim a (s.withLog l)) := by
  unfold limitCheck
  refine .ite Iff.rfl ?_ (.withLog ..)
  rw [State.withLog_params]
  cases s.params.limitCheck with
  | off | fault => exact .withLog ..
  | log => exact ⟨rfl, _, rfl⟩

theorem supervisorCheck_sameButLog (level : Level) (d : Desc) (a : Word) :
    SameButLog (supervisorCheck la acc level d a s) (supervisorCheck la acc level d a (s.withLog l)) := by
  unfold supervisorCheck
  exact .ite Iff.rfl (.withLog ..) (.withLog ..)

theorem fetchCheck_sameButLog (at' : WalkAt) (idx : Word) (pos : DescPos) (level : Level) :
    SameButLog (fetchCheck la acc at' idx pos level s) (fetchCheck la acc at' idx pos level (s.withLog l)) := by
  refine (limitCheck_sameButLog la acc s l level idx _ _).andThen fun _ s1 l1 => ?_
  refine (fetchDesc_sameButLog la acc s1 l1 level _ _ pos).andThen fun d s2 l2 => ?_
  exact .ite Iff.rfl (.withLog ..)
    ((supervisorCheck_sameButLog la acc s2 l2 level d _).andThen fun _ _ _ => .withLog ..)

theorem fetchIndirect_sameButLog (ia : Word) (size : DescSize) :
    SameButLog (fetchIndirect la acc ia size s) (fetchIndirect la acc ia size (s.withLog l)) := by
  refine (fetchDesc_sameButLog la acc s l .indirect ia size .indirectTarget).andThen fun d s1 l1 => ?_
  cases d with
  | page p => exact (supervisorCheck_sameButLog la acc s1 l1 .indirect (.page p) ia).andThen fun _ _ _ => .withLog ..
  | invalid | table | indirect => exact .withLog ..

theorem walkLast_sameButLog (level : TableLevel) (at' : WalkAt) :
    SameButLog (walkLast la acc level at' s) (walkLast la acc level at' (s.withLog l)) := by
  refine (fetchCheck_sameButLog la acc s l at' _ .last (.table level)).andThen fun d s1 l1 => ?_
  cases d with
  | indirect ia size => exact (fetchIndirect_sameButLog la acc s1 l1 ia size).andThen fun _ _ _ => .withLog ..
  | invalid | page | table => exact .withLog ..

theorem walkLevels_sameButLog (levels : List TableLevel) (at' : WalkAt) :
    SameButLog (walkLevels la acc levels at' s) (walkLevels la acc levels at' (s.withLog l)) := by
  induction levels generalizing at' s l with
  | nil => exact .withLog ..
  | cons level levels ih =>
    unfold walkLevels
    refine .ite Iff.rfl (walkLast_sameButLog la acc s l level at') ?_
    refine (fetchCheck_sameButLog la acc s l at' _ .nonLast (.table level)).andThen fun d s1 l1 => ?_
    cases d with
    | table t => exact ih s1 l1 (nextTable at' t)
    | invalid | page | indirect => exact .withLog ..

theorem walkTables_sameButLog (at' : WalkAt) :
    SameButLog (walkTables la acc at' s) (walkTables la acc at' (s.withLog l)) := by
  unfold walkTables
  refine .ite Iff.rfl (walkLevels_sameButLog la acc s l _ at') ?_
  refine (fetchCheck_sameButLog la acc s l at' _ .nonLast .fc).andThen fun d s1 l1 => ?_
  cases d with
  | table t => exact walkLevels_sameButLog la acc s1 l1 _ (nextTable at' t)
  | invalid | page | indirect => exact .withLog ..

theorem walk_sameButLog : SameButLog (walk la acc s) (walk la acc (s.withLog l)) := by
  unfold walk
  exact .ite Iff.rfl (.withLog ..) (.ite Iff.rfl (.withLog ..) (walkTables_sameButLog la acc s l _))

theorem walkCommand_sameButLog : SameButLog (walkCommand acc la s) (walkCommand acc la (s.withLog l)) := by
  unfold walkCommand
  exact .ite Iff.rfl (.withLog ..) ((walk_sameButLog la acc s l).mapAns _)

/-! ### The ATC and the pipeline -/

theorem atcVictim_withLog : atcVictim (s.withLog l) = ((atcVictim s).1, (atcVictim s).2.withLog l) := by
  simp only [atcVictim, State.withLog_atc, State.withLog_params]
  split
  · rfl
  · split <;> rfl

theorem atcInsert_withLog (fc : BitVec 3) (pa : Word) (ci wp m : Bool) :
    atcInsert la fc pa ci wp m (s.withLog l) = (atcInsert la fc pa ci wp m s).withLog l := by
  simp only [atcInsert, State.withLog_params, atcVictim_withLog]
  split <;> rfl

theorem insertCommand_sameButLog (sup dat ci wp m : Bool) (pa : Word) :
    SameButLog (insertCommand sup dat ci wp m la pa s) (insertCommand sup dat ci wp m la pa (s.withLog l)) := by
  unfold insertCommand
  exact .ite Iff.rfl (.withLog ..) ⟨rfl, l, atcInsert_withLog la s l ..⟩

theorem lookupCommand_sameButLog : SameButLog (lookupCommand acc la s) (lookupCommand acc la (s.withLog l)) := by
  unfold lookupCommand
  exact .ite Iff.rfl (.withLog ..) (.withLog (.ok (lookupResult la acc s)) s l)

theorem locatePaged_sameButLog : SameButLog (locatePaged la acc s) (locatePaged la acc (s.withLog l)) := by
  have hfind : atcFind la acc (s.withLog l) = atcFind la acc s := rfl
  unfold locatePaged
  rw [hfind]
  split
  · exact .withLog ..
  · exact (walk_sameButLog la acc s l).mapAns _

theorem locate_sameButLog : SameButLog (locate la acc s) (locate la acc (s.withLog l)) := by
  have hwindows : ttResolve la acc (s.withLog l) = ttResolve la acc s := rfl
  unfold locate
  rw [hwindows]
  cases ttResolve la acc s with
  | hit | violation => exact .withLog ..
  | miss => exact .ite Iff.rfl (.withLog ..) (.ite Iff.rfl (.withLog ..) (locatePaged_sameButLog la acc s l))

theorem fillAtc_withLog (t : Translation) : fillAtc la acc t (s.withLog l) = (fillAtc la acc t s).withLog l := by
  simp only [fillAtc, atcInsert_withLog]
  split <;> rfl

theorem translate_sameButLog : SameButLog (translate la acc s) (translate la acc (s.withLog l)) :=
  (locate_sameButLog la acc s l).andThen fun t s1 l1 => ⟨rfl, l1, fillAtc_withLog la acc s1 l1 t⟩

theorem physicalStage_sameButLog {f : State → Ans α × State} (hf : ∀ s l, SameButLog (f s) (f (s.withLog l)))
    (t : Translation) : SameButLog (physicalStage la acc t f s) (physicalStage la acc t f (s.withLog l)) := by
  have hrun := hf (fillAtc la acc t s) l
  rw [← fillAtc_withLog] at hrun
  unfold physicalStage
  rw [(hf s l).answer]
  split
  · exact .withLog ..
  · exact hrun.mapFault _
  · exact hrun.mapFault _

theorem logicalRead_sameButLog (w : Width) :
    SameButLog (logicalRead w la acc s) (logicalRead w la acc (s.withLog l)) := by
  unfold logicalRead
  exact .ite Iff.rfl (.withLog ..) ((locate_sameButLog la acc s l).andThen fun t s1 l1 =>
    physicalStage_sameButLog la acc s1 l1 (physRead_sameButLog w t.pa) t)

theorem logicalWrite_sameButLog (w : Width) (v : Word) :
    SameButLog (logicalWrite w la acc v s) (logicalWrite w la acc v (s.withLog l)) := by
  unfold logicalWrite
  exact .ite Iff.rfl (.withLog ..) ((locate_sameButLog la acc s l).andThen fun t s1 l1 =>
    physicalStage_sameButLog la acc s1 l1 (physStore_sameButLog w t.pa v) t)

end

/-! ### The other commands -/

section
variable (s : State) (l : List DiagEvent)

theorem logTcWrite_withLog (v : Word) : ∃ l', logTcWrite (s.withLog l) v = (logTcWrite s v).withLog l' := by
  unfold logTcWrite
  split <;> exact ⟨_, rfl⟩

theorem mapRange_sameButLog (bank : BankRef) (start count : Word) :
    SameButLog (mapRange bank start count s) (mapRange bank start count (s.withLog l)) := by
  unfold mapRange
  exact .ite Iff.rfl (.withLog ..) (.ite Iff.rfl (.withLog ..) ⟨rfl, l, rfl⟩)

theorem restore_sameButLog (view : List Word) : SameButLog (restore view s) (restore view (s.withLog l)) := by
  unfold restore
  exact .ite Iff.rfl ⟨rfl, l, rfl⟩ (.withLog ..)

/-- A cold reset empties the log, so that an accepted one leaves the same state. -/
theorem coldReset_sameButLog : SameButLog (coldReset s) (coldReset (s.withLog l)) := by
  unfold coldReset
  exact .ite Iff.rfl ⟨rfl, [], rfl⟩ (.withLog ..)

theorem operation_sameButLog (i : Instr) : SameButLog (operation i s) (operation i (s.withLog l)) := by
  cases i with
  | wrTc v => exact ⟨rfl, logTcWrite_withLog (s.setRegs { s.regs with tcRaw := v, tc := decodeTc v }) l v⟩
  | wrSrp | wrCrp | wrTt0 | wrTt1 | wrMmusr => exact ⟨rfl, _, rfl⟩
  | translate acc la => exact (translate_sameButLog la acc s l).mapAns _
  | walk acc la => exact walkCommand_sameButLog la acc s l
  | atcLookup acc la => exact lookupCommand_sameButLog la acc s l
  | atcInsert => exact insertCommand_sameButLog ..
  | lread8 | lread16 | lread32 => exact (logicalRead_sameButLog ..).mapAns _
  | lwrite8 | lwrite16 | lwrite32 => exact logicalWrite_sameButLog ..
  | pread8 | pread16 | pread32 => exact (physRead_sameButLog ..).mapAns _
  | pwrite8 | pwrite16 | pwrite32 => exact physStore_sameButLog ..
  | toHost pa =>
    simp only [operation, State.withLog_slots, bankToHost_withLog]
    exact (SameButLog.withLog _ s l).mapAns _
  | map => exact mapRange_sameButLog ..
  | snapRestore view => exact restore_sameButLog s l view
  | coldReset => exact coldReset_sameButLog s l
  | flushAll | flushFc | flushPage | mmuReset => exact ⟨rfl, l, rfl⟩
  | rdTc | rdSrp | rdCrp | rdTt0 | rdTt1 | rdMmusr | tt0Match | tt1Match | boundsCheck | regionName | queryDecoded
  | snapSave => exact .withLog ..

end

/-- Settles O51: the operation of a command is the same but for the log, and its end reads no log. -/
theorem diagnosticLogIsNeverRead : Obligations.DiagnosticLogIsNeverRead := by
  intro i s t l h
  rw [exec_eq_deliver] at h
  obtain ⟨l', h'⟩ := (operation_sameButLog s l i).deliver h
  exact ⟨l', (exec_eq_deliver i (s.withLog l)).trans h'⟩

end Sys2Proof.Machine
end

section
/-! PROOFS. Right after a flush that covers an address, neither ATC_LOOKUP nor TRANSLATE finds it in the ATC (R98). -/

namespace Sys2Proof.Machine

/-! ### The lookup after a flush -/

theorem SameMachine.atcFind_eq {s t : State} (h : SameMachine s t) (la : Word) (acc : Access) :
    atcFind la acc t = atcFind la acc s := by
  unfold atcFind
  rw [h.params, h.atc, h.regs]

/-- A flush that covers the page of an address and its function code (R375 to R377). -/
def FlushesPageOf (pageMask : Word) (fc : BitVec 3) (la : Word) (i : Instr) : Prop :=
  i = .flushAll ∨ i = .flushFc fc
    ∨ ∃ la', i = .flushPage fc la' ∧ la &&& ~~~pageMask = la' &&& ~~~pageMask

/-- Each of the three flushes picks every entry that could hit, whatever else it picks. -/
theorem FlushesPageOf.atcFind_eq_none {s t : State} {i : Instr} {acc : Access} {la : Word}
    (hi : FlushesPageOf s.regs.tc.pageMask (functionCode acc) la i) (h : exec i s = .next t) :
    atcFind la acc t = none := by
  rw [(exec_sameMachine h).atcFind_eq]
  obtain rfl | rfl | ⟨la', rfl, hpage⟩ := hi
  · exact atcFind_flush_none fun e _ => rfl
  · refine atcFind_flush_none fun e he => ?_
    simp only [entryCovers, Bool.and_eq_true] at he ⊢
    obtain ⟨hentry, -⟩ := he
    exact hentry
  · refine atcFind_flush_none fun e he => ?_
    rw [entryCovers, hpage] at he
    exact he

theorem FlushesPageOf.regs_eq {s t : State} {i : Instr} {pageMask la : Word} {fc : BitVec 3}
    (hi : FlushesPageOf pageMask fc la i) (h : exec i s = .next t) : t.regs = s.regs := by
  rw [(exec_sameMachine h).regs]
  obtain rfl | rfl | ⟨la', rfl, -⟩ := hi <;> rfl

/-! ### Where a translation comes from -/

theorem ttOutcome_hit_via {n : Fin 2} {via : Via} {tt : TtDecoded} {la : Word} {acc : Access} {pc : Word}
    {code : TtResult} {r : Translation} (h : ttOutcome n via tt la acc pc code = .hit r) : r.via = via := by
  cases code <;> cases h
  rfl

/-- A window's translation names the window (R347). -/
theorem ttResolve_hit_via {la : Word} {acc : Access} {s : State} {r : Translation}
    (h : ttResolve la acc s = .hit r) : r.via = .tt0 ∨ r.via = .tt1 := by
  unfold ttResolve at h
  split at h
  · exact .inr (ttOutcome_hit_via h)
  · exact .inl (ttOutcome_hit_via h)

theorem mapAns_fst_ok {α β : Type} {f : α → β} {x : Ans α × State} {b : β} :
    (mapAns f x).1 = .ok b ↔ ∃ a, x.1 = .ok a ∧ f a = b := by
  obtain ⟨_ | _ | _, s⟩ := x <;> simp

/-- A translation comes from the ATC only where the lookup hits (R401). -/
theorem locate_via_ne_atc {la : Word} {acc : Access} {s : State} {r : Translation} (hmiss : atcFind la acc s = none)
    (h : (locate la acc s).1 = .ok r) : r.via ≠ .atc := by
  unfold locate at h
  split at h
  · rename_i hwindow
    cases h
    rcases ttResolve_hit_via hwindow with hvia | hvia <;> simp [hvia]
  · cases h
  · split at h
    · cases h; simp [identityTranslation]
    · split at h
      · cases h
      · have hwalk : locatePaged la acc s = mapAns walkTranslation (walk la acc s) := by rw [locatePaged, hmiss]
        obtain ⟨a, -, rfl⟩ := mapAns_fst_ok.mp (hwalk ▸ h)
        simp [walkTranslation]

theorem translate_fst (la : Word) (acc : Access) (s : State) : (translate la acc s).1 = (locate la acc s).1 := by
  unfold translate
  rcases locate la acc s with ⟨_ | _ | _, u⟩ <;> rfl

/-- `Ok` is the reply of an operation that answered it (R13). -/
theorem operation_ok_of_reply {i : Instr} {s t : State} {r : Result} (h : exec i s = .next t)
    (hr : t.reply = .ok r) : (operation i s).1 = .ok r := by
  rw [exec_eq_deliver] at h
  rcases deliver_cases (carriedBy i) (operation i s) with ⟨a, ha, hd⟩ | ⟨f, -, hd⟩ | ⟨q, -, hd⟩ <;>
    rw [hd] at h <;> cases h <;> cases hr
  exact ha

/-- A TRANSLATE of an address that the ATC misses answers no translation from the ATC. -/
theorem exec_translate_via_ne_atc {la : Word} {acc : Access} {s u : State} {r : Translation}
    (hmiss : atcFind la acc s = none) (h : exec (.translate acc la) s = .next u)
    (hr : u.reply = .ok (.translation r)) : r.via ≠ .atc := by
  obtain ⟨a, ha, hresult⟩ := mapAns_fst_ok.mp (operation_ok_of_reply h hr)
  cases hresult
  exact locate_via_ne_atc hmiss (translate_fst la acc s ▸ ha)

theorem exec_atcLookup_miss {la : Word} {acc : Access} {s : State} (hmodelled : s.regs.tc.tcUnmodelled = false)
    (hmiss : atcFind la acc s = none) : exec (.atcLookup acc la) s = .next (answered s .atcMiss) := by
  have hcommand : lookupCommand acc la s = (.ok .atcMiss, s) := by
    simp [lookupCommand, lookupResult, hmodelled, hmiss]
  rw [exec_eq_deliver, operation, hcommand]
  rfl

/-- Settles O17: after the flush the lookup of the address finds no entry, and both commands answer by that lookup. -/
theorem flushedAddressMisses : Obligations.FlushedAddressMisses := by
  intro s t i acc la hi h hmodelled
  have hflush : FlushesPageOf s.regs.tc.pageMask (functionCode acc) la i := hi
  have hmiss := hflush.atcFind_eq_none h
  rw [← hflush.regs_eq h] at hmodelled
  exact ⟨exec_atcLookup_miss hmodelled hmiss, fun _ _ hu hr => exec_translate_via_ne_atc hmiss hu hr⟩

end Sys2Proof.Machine
end

section
/-! PROOFS. Physical reads and writes of the banks with a store (R82 to R84, R92): bytes of a store as numbers, the one
read of RAM, ROM and video, the one write of RAM and video, and what a Long written reads back as. -/

namespace Sys2Proof.Machine

/-! ### Bytes and numbers -/

section
variable (a b c d : Byte)

theorem joinBytes_one : (joinBytes [a]).toNat = a.toNat := by
  have ha : a.toNat < 2 ^ 32 := Nat.lt_trans a.isLt (by decide)
  simpa [joinBytes] using ha

theorem joinBytes_two : (joinBytes [a, b]).toNat = a.toNat * 0x100 + b.toNat := by
  have h := joinBytes_one a
  have ha := a.isLt
  exact (joinByte_toNat (a := joinBytes [a]) (by omega)).trans (by rw [h])

theorem joinBytes_three : (joinBytes [a, b, c]).toNat = (a.toNat * 0x100 + b.toNat) * 0x100 + c.toNat := by
  have h := joinBytes_two a b
  have ha := a.isLt
  have hb := b.isLt
  exact (joinByte_toNat (a := joinBytes [a, b]) (by omega)).trans (by rw [h])

theorem joinBytes_four :
    (joinBytes [a, b, c, d]).toNat = ((a.toNat * 0x100 + b.toNat) * 0x100 + c.toNat) * 0x100 + d.toNat := by
  have h := joinBytes_three a b c
  have ha := a.isLt
  have hb := b.isLt
  have hc := c.isLt
  exact (joinByte_toNat (a := joinBytes [a, b, c]) (by omega)).trans (by rw [h])

end

/-- The join of the bytes read is their big-endian number (R82). -/
theorem joinBytes_readBytes_toNat (m : Memory) (o : Nat) (w : Width) :
    (joinBytes (readBytes m o (widthBytes w))).toNat = bigEndian m o w := by
  cases w with
  | byte => exact joinBytes_one _
  | word => exact joinBytes_two _ _
  | long =>
    refine (joinBytes_four (readByte m o) (readByte m (o + 1)) (readByte m (o + 2)) (readByte m (o + 3))).trans ?_
    rw [bigEndian]
    omega

theorem valueByte_toNat (w : Width) (v : Word) (i : Nat) :
    (valueByte w v i).toNat = v.toNat / 2 ^ (8 * (widthBytes w - 1 - i)) % 2 ^ 8 := by
  simp [valueByte, Nat.shiftRight_eq_div_pow]

/-- Byte `i` of a value's split, counted from the most significant (R82). -/
theorem splitBytes_getElem (w : Width) (v : Word) (i : Nat) (hi : i < (splitBytes w v).length) :
    (splitBytes w v)[i] = valueByte w v i := by
  apply BitVec.eq_of_toNat_eq
  rw [valueByte_toNat]
  cases w with
  | byte =>
    obtain rfl : i = 0 := Nat.lt_one_iff.mp hi
    simp [splitBytes, widthBytes]
  | word =>
    have hlt : i < 2 := hi
    interval_cases i <;> simp [splitBytes, widthBytes, Nat.shiftRight_eq_div_pow]
  | long =>
    have hlt : i < 4 := hi
    interval_cases i <;> simp [splitBytes, widthBytes, Nat.shiftRight_eq_div_pow]

/-- A value's bytes are those of its low bits alone (R10). -/
theorem valueByte_of_low {w : Width} {x v : Word} (h : x.toNat = v.toNat % 2 ^ (8 * widthBytes w)) {i : Nat}
    (hi : i < widthBytes w) : valueByte w x i = valueByte w v i := by
  have hbit : ∀ k < 8 * widthBytes w, x.getLsbD k = v.getLsbD k := fun k hk => by
    simp [BitVec.getLsbD, h, Nat.testBit_mod_two_pow, hk]
  apply BitVec.eq_of_getLsbD_eq
  intro k hk
  simp [valueByte, hk, hbit (8 * (widthBytes w - 1 - i) + k) (by omega)]

/-- A store after a write of a value's low bits (R82). -/
theorem writeBytes_holdsAt {m : Memory} (hm : m.wf = true) (o : Nat) {w : Width} {x v : Word}
    (h : x.toNat = v.toNat % 2 ^ (8 * widthBytes w)) : HoldsAt m (writeBytes m o (splitBytes w x)) o w v := by
  constructor
  · intro i hi
    rw [readByte_writeBytes_inside hm (by simpa using hi), splitBytes_getElem, valueByte_of_low h hi]
  · intro j hj
    exact readByte_writeBytes_outside (by simpa using hj)

/-- The bytes from the `i`-th on of a Long in a store are the bits of the Long that stand there (R82, R83). -/
theorem HoldsAt.bigEndian_long {m m' : Memory} {o : Nat} {v : Word} (h : HoldsAt m m' o .long v) {w : Width} {i : Nat}
    (hi : i + widthBytes w ≤ 4) :
    bigEndian m' (o + i) w = v.toNat / 2 ^ (8 * (4 - i - widthBytes w)) % 2 ^ (8 * widthBytes w) := by
  obtain ⟨hbytes, -⟩ := h
  have hbyte : ∀ k < 4, (readByte m' (o + k)).toNat = v.toNat / 2 ^ (8 * (3 - k)) % 2 ^ 8 := fun k hk => by
    rw [hbytes k hk, valueByte_toNat]; rfl
  have hv := v.isLt
  cases w with
  | byte =>
    have hlast : 4 - i - widthBytes .byte = 3 - i := Nat.sub_right_comm 4 i 1
    rw [bigEndian, hbyte i hi, hlast]
    rfl
  | word =>
    have hlast : i ≤ 2 := Nat.le_of_add_le_add_right hi
    rw [bigEndian, Nat.add_assoc, hbyte i (by omega), hbyte (i + 1) (by omega)]
    simp only [widthBytes]
    interval_cases i <;> omega
  | long =>
    obtain rfl : i = 0 := by simpa [widthBytes] using hi
    have hfirst := hbyte 0 (by decide)
    rw [Nat.add_zero] at hfirst
    rw [bigEndian, Nat.add_zero, hfirst, hbyte 1 (by decide), hbyte 2 (by decide), hbyte 3 (by decide)]
    simp only [widthBytes]
    omega

theorem and_0xFF_toNat (v : Word) : (v &&& 0xFF).toNat = v.toNat % 2 ^ 8 := by
  rw [BitVec.toNat_and]
  exact Nat.and_two_pow_sub_one_eq_mod v.toNat 8

theorem and_0xFFFF_toNat (v : Word) : (v &&& 0xFFFF).toNat = v.toNat % 2 ^ 16 := by
  rw [BitVec.toNat_and]
  exact Nat.and_two_pow_sub_one_eq_mod v.toNat 16

/-! ### The mirror -/

section
variable {m : Memory} {mask : Nat} {w : Width} {pa : Word}

theorem storeRead_past (h : mask < (pa.toNat &&& mask) + widthBytes w - 1) :
    storeRead m mask w pa = .refuse .mirrorEnd := by
  have hpast : pastMirror mask (storeOffset mask pa) w = true := decide_eq_true h
  rw [storeRead, if_pos hpast]

theorem storeRead_within (h : (pa.toNat &&& mask) + widthBytes w - 1 ≤ mask) :
    storeRead m mask w pa = .ok (joinBytes (readBytes m (pa.toNat &&& mask) (widthBytes w))) := by
  have hwithin : pastMirror mask (storeOffset mask pa) w = false := decide_eq_false (Nat.not_lt.mpr h)
  rw [storeRead, hwithin]
  rfl

theorem storeWrite_past {v : Word} (h : mask < (pa.toNat &&& mask) + widthBytes w - 1) :
    storeWrite m mask w pa v = .refuse .mirrorEnd := by
  have hpast : pastMirror mask (storeOffset mask pa) w = true := decide_eq_true h
  rw [storeWrite, if_pos hpast]

theorem storeWrite_within {v : Word} (h : (pa.toNat &&& mask) + widthBytes w - 1 ≤ mask) :
    storeWrite m mask w pa v = .ok (writeBytes m (pa.toNat &&& mask) (splitBytes w v)) := by
  have hwithin : pastMirror mask (storeOffset mask pa) w = false := decide_eq_false (Nat.not_lt.mpr h)
  rw [storeWrite, hwithin]
  rfl

end

/-! ### The banks with a store -/

theorem storeOf_ram {s : State} {b : Nat} {m : Memory} {size : Nat} (h : storeOf s (.ram b) = some (m, size)) :
    ∃ r, s.params.ram[b]? = some r ∧ s.stores.ram[b]? = some m ∧ r.size = size := by
  simp only [storeOf] at h
  split at h
  · rename_i r _ hr hm
    cases h
    exact ⟨r, hr, hm, rfl⟩
  · cases h

/-- The banks with a store read it in one way, but for the overlay (R220, R224, R228). -/
theorem physRead_of_store {s : State} {w : Width} {pa : Word} {m : Memory} {size : Nat}
    (h : storeOf s (bankAt s.slots (pa.toNat / 0x10000)) = some (m, size)) (hoverlay : ¬ OverlaidRead s pa) :
    physRead w pa s = (storeRead m (size - 1) w pa, s) := by
  rw [physRead_eq]
  cases hbank : bankAt s.slots (pa.toNat / 0x10000) with
  | ram b =>
    obtain ⟨r, hr, hm, rfl⟩ := storeOf_ram (hbank ▸ h)
    simp only [bankRead, ramRead, hr, hm]
  | rom =>
    rw [hbank] at h
    cases h
    have hdirect : ¬ (s.bootOverlay = true ∧ pa.toNat < overlaySize) := fun hover => hoverlay ⟨hbank, hover⟩
    rw [bankRead, romRead, if_neg hdirect]
  | videoMono | videoColor =>
    rw [hbank] at h
    cases h
    rfl
  | empty | busErr | io =>
    rw [hbank] at h
    cases h

/-- The banks with a writable store write it in one way (R221, R228). -/
theorem physWrite_of_store {s : State} {w : Width} {pa v : Word} {m : Memory} {size : Nat}
    (h : storeOf s (bankAt s.slots (pa.toNat / 0x10000)) = some (m, size))
    (hrom : bankAt s.slots (pa.toNat / 0x10000) ≠ .rom) :
    physWrite w pa v s = commitStore s
      (fun m' => s.setStores (putStore s.stores (bankAt s.slots (pa.toNat / 0x10000)) m'))
      (storeWrite m (size - 1) w pa v) := by
  rw [physWrite_eq]
  cases hbank : bankAt s.slots (pa.toNat / 0x10000) with
  | ram b =>
    obtain ⟨r, hr, hm, rfl⟩ := storeOf_ram (hbank ▸ h)
    simp only [bankWrite, ramWrite, hr, hm]
    rfl
  | rom => exact absurd hbank hrom
  | videoMono | videoColor =>
    rw [hbank] at h
    cases h
    rfl
  | empty | busErr | io =>
    rw [hbank] at h
    cases h

/-- A store put in is the store of its bank, of the same size. -/
theorem storeOf_putStore {s : State} {bank : BankRef} {m : Memory} {size : Nat} (h : storeOf s bank = some (m, size))
    (m' : Memory) : storeOf { s with stores := putStore s.stores bank m' } bank = some (m', size) := by
  cases bank with
  | ram b =>
    obtain ⟨r, hr, hm, rfl⟩ := storeOf_ram h
    obtain ⟨hb, -⟩ := List.getElem?_eq_some_iff.mp hm
    simp [storeOf, putStore, hr, hb]
  | rom | videoMono | videoColor => cases h; rfl
  | empty | busErr | io => cases h

/-! ### The commands -/

theorem exec_preadOf (w : Width) (pa : Word) (s : State) :
    exec (preadOf w pa) s = deliver readCarries (mapAns (.value w) (physRead w pa s)) := by
  cases w <;> rfl

/-- PWRITE passes on the low bits of its value (R10). -/
theorem exec_pwriteOf {w : Width} {x v : Word} (h : x.toNat = v.toNat % 2 ^ (8 * widthBytes w)) (pa : Word)
    (s : State) : exec (pwriteOf w pa v) s = deliver carriesNone (physStore w pa x s) := by
  cases w with
  | byte =>
    obtain rfl : (v.setWidth 8).setWidth 32 = x := BitVec.eq_of_toNat_eq (by simp [h, widthBytes]; omega)
    rfl
  | word =>
    obtain rfl : (v.setWidth 16).setWidth 32 = x := BitVec.eq_of_toNat_eq (by simp [h, widthBytes]; omega)
    rfl
  | long =>
    obtain rfl : v = x := BitVec.eq_of_toNat_eq (h.trans (Nat.mod_eq_of_lt v.isLt)).symm
    rfl

/-- Settles O25: the banks with a store share one read, whose join of bytes is the big-endian number. -/
theorem physicalReadAnswersStoreBytes : Obligations.PhysicalReadAnswersStoreBytes := by
  rintro w pa s m size o hstore hoverlay rfl
  rw [exec_preadOf, physRead_of_store hstore hoverlay]
  refine ⟨fun hpast => ?_, fun hwithin => ⟨_, joinBytes_readBytes_toNat m _ w, ?_⟩⟩
  · rw [storeRead_past hpast]; rfl
  · rw [storeRead_within hwithin]; rfl

/-- The value that a write of a width passes on (R10). -/
theorem exists_low (w : Width) (v : Word) : ∃ x : Word, x.toNat = v.toNat % 2 ^ (8 * widthBytes w) :=
  ⟨BitVec.ofNat 32 (v.toNat % 2 ^ (8 * widthBytes w)),
    BitVec.toNat_ofNat .. ▸ Nat.mod_eq_of_lt (Nat.lt_of_le_of_lt (Nat.mod_le ..) v.isLt)⟩

/-- Settles O29: RAM and video share one write; ROM's is a log event. -/
theorem physicalWriteStoresItsBytes : Obligations.PhysicalWriteStoresItsBytes := by
  rintro w pa v s m size o hstore hm rfl
  constructor
  · intro hrom x hx
    rw [exec_pwriteOf hx, physStore, physWrite_eq, hrom]
    rfl
  · intro hrom
    obtain ⟨x, hx⟩ := exists_low w v
    rw [exec_pwriteOf hx, physStore, physWrite_of_store hstore hrom]
    refine ⟨fun hpast => ?_, fun hwithin => ⟨_, writeBytes_holdsAt hm _ hx, ?_⟩⟩
    · rw [storeWrite_past hpast]; rfl
    · rw [storeWrite_within hwithin]; rfl

/-! ### Aliases -/

/-- A read of the bytes from the `i`-th on of a Long in a store, through any address of the store's bank. -/
theorem exec_preadOf_of_holdsAt {t : State} {pa v x : Word} {m m' : Memory} {size o i : Nat} {w : Width}
    (hstore : storeOf t (bankAt t.slots (pa.toNat / 0x10000)) = some (m', size)) (hoverlay : ¬ OverlaidRead t pa)
    (hlong : HoldsAt m m' o .long v) (hend : o + 3 ≤ size - 1) (hi : i + widthBytes w ≤ 4)
    (hoffset : pa.toNat &&& (size - 1) = o + i)
    (hx : x.toNat = v.toNat / 2 ^ (8 * (4 - i - widthBytes w)) % 2 ^ (8 * widthBytes w)) :
    exec (preadOf w pa) t = .next (answered t (.value w x)) := by
  obtain ⟨-, hread⟩ := physicalReadAnswersStoreBytes w pa t m' size (o + i) hstore hoverlay hoffset.symm
  obtain ⟨y, hy, hexec⟩ := hread (by omega)
  obtain rfl : y = x := BitVec.eq_of_toNat_eq (hy.trans ((hlong.bigEndian_long hi).trans hx.symm))
  exact hexec

/-- Settles O30: the write left the Long's bytes in the bank's store (O29), and a read through any slot of the bank
answers the bytes at its offset (O25). -/
theorem writeIsReadThroughEveryAlias : Obligations.WriteIsReadThroughEveryAlias := by
  intro s t pa pa' v m size o hstore hm hrom hsameBank ho hend hexec
  obtain ⟨-, hwrite⟩ := physicalWriteStoresItsBytes .long pa v s m size o hstore hm ho
  obtain ⟨-, hstored⟩ := hwrite hrom
  obtain ⟨m', hlong, hwritten⟩ := hstored hend
  obtain rfl := Host.Outcome.next.inj (hexec.symm.trans hwritten)
  rw [← hsameBank] at hstore hrom
  have hstore' := storeOf_putStore hstore m'
  have hoverlay : ¬ OverlaidRead s pa' := fun ⟨hbank, _⟩ => hrom hbank
  rw [← hsameBank]
  refine ⟨fun i hi hoffset => ?_, fun hoffset => ?_, fun hoffset => ?_, fun hoffset => ?_⟩
  · refine exec_preadOf_of_holdsAt (w := .byte) hstore' hoverlay hlong hend (Nat.succ_le_of_lt hi) hoffset ?_
    have hshift : 24 - 8 * i = 8 * (4 - i - 1) := by omega
    rw [and_0xFF_toNat, BitVec.toNat_ushiftRight, Nat.shiftRight_eq_div_pow, hshift]
    rfl
  · refine exec_preadOf_of_holdsAt (w := .word) (i := 0) hstore' hoverlay hlong hend (by decide) hoffset ?_
    have hupper : v.toNat / 2 ^ 16 < 2 ^ 16 := Nat.div_lt_of_lt_mul v.isLt
    rw [BitVec.toNat_ushiftRight, Nat.shiftRight_eq_div_pow]
    exact (Nat.mod_eq_of_lt hupper).symm
  · refine exec_preadOf_of_holdsAt (w := .word) hstore' hoverlay hlong hend (by decide) hoffset ?_
    rw [and_0xFFFF_toNat]
    simp [widthBytes]
  · refine exec_preadOf_of_holdsAt (w := .long) (i := 0) hstore' hoverlay hlong hend (by decide) hoffset ?_
    simp [widthBytes, Nat.mod_eq_of_lt v.isLt]

end Sys2Proof.Machine
end

section
/-! PROOFS. The decoder and the encoder are inverse to each other on well-formed commands (R160 to R165): one lemma for
each part of a call (header, operand count, value operand, 64-bit operand, bank code), then each operation from its
parts. -/

namespace Sys2Proof

/-! ### Bits of words -/

theorem and_not_eq_zero_iff (v m : Word) : v &&& ~~~m = 0 ↔ v &&& m = v := by
  simp only [BitVec.eq_of_getLsbD_eq_iff, BitVec.getLsbD_and, BitVec.getLsbD_not]
  refine forall₂_congr fun k hk => ?_
  cases v.getLsbD k <;> simp [hk]

/-- The bits from `n` up are zero. -/
theorem and_highMask_eq_zero_iff (v : Word) {n : Nat} (hn : n ≤ 32) :
    v &&& ~~~(BitVec.ofNat 32 (2 ^ n - 1)) = 0 ↔ v.toNat < 2 ^ n := by
  have hpow : 2 ^ n ≤ 2 ^ 32 := Nat.pow_le_pow_right (by decide) hn
  have hpos : 0 < 2 ^ n := Nat.two_pow_pos n
  rw [and_not_eq_zero_iff, ← BitVec.toNat_inj, BitVec.toNat_and, BitVec.toNat_ofNat,
    Nat.mod_eq_of_lt (by omega), Nat.and_two_pow_sub_one_eq_mod, Nat.mod_eq_iff_lt hpos.ne']

theorem getLsbD_eq_false_of_and_eq_zero {v m : Word} {k : Nat} (h : v &&& m = 0) (hk : m.getLsbD k = true) :
    v.getLsbD k = false := by
  have hbit := congrArg (BitVec.getLsbD · k) h
  simpa [hk] using hbit

theorem toNat_getLsbD (v : Word) (k : Nat) : (v.getLsbD k).toNat = v.toNat / 2 ^ k % 2 := by
  rw [BitVec.getLsbD, Nat.toNat_testBit]

/-! ### Legal headers (R160, R163) -/

/-- A header that names an operation and that no case of R163 rejects. -/
structure LegalHeader (op : Op) (h : Word) : Prop where
  names : opCode op = headerOp h
  faultless : headerFault op h = none

theorem LegalHeader.opCode_eq {op : Op} {h : Word} (hl : LegalHeader op h) : h.toNat % 256 = opCode op :=
  (headerOp_eq h).symm.trans hl.names.symm

/-- The three checks of R163 that a header passes. -/
theorem headerFault_eq_none_iff (op : Op) (h : Word) : headerFault op h = none ↔
    h &&& 0xFFFE0000 = 0 ∧ h &&& ~~~(opHeaderBits op ||| 0xFF) = 0 ∧ ∀ d, opDirection op = some d → headerWr h = d := by
  unfold headerFault
  split
  · simp_all
  · split
    · simp_all
    · cases opDirection op <;> simp_all

theorem headerFault_ne_viewLength {op : Op} {h : Word} : headerFault op h ≠ some .viewLength := by
  unfold headerFault
  split
  · nofun
  · split
    · nofun
    · cases opDirection op with
      | none => nofun
      | some d => dsimp only; split <;> nofun

/-- Behind a legal header the decoder reads the operand words. -/
theorem decode_of_legal {op : Op} {h : Word} (hl : LegalHeader op h) (args : List Word) :
    decode (h :: args) = assemble op h args := by
  simp only [decode, ← hl.names, opOfCode_opCode, hl.faultless]

/-- What decodes is a legal header and operand words that make the command. -/
theorem legal_of_decode {words : List Word} {i : Instr} (hi : decode words = .instr i) :
    ∃ op h args, words = h :: args ∧ LegalHeader op h ∧ assemble op h args = .instr i := by
  unfold decode at hi
  split at hi
  · cases hi
  · rename_i h args
    split at hi
    · cases hi
    · rename_i op hop
      split at hi
      · cases hi
      · rename_i hfault
        exact ⟨op, h, args, rfl, ⟨opCode_of_opOfCode hop, hfault⟩, hi⟩

/-! ### The headers the encoder writes are legal

One lemma for each set of fields that operations use (`opHeaderBits`); each is a check of the opcode table. -/

theorem legalHeader_plain {op : Op} (hbits : opHeaderBits op = 0) : LegalHeader op (headerPlain op) where
  names := by simp [headerPlain]
  faultless := by revert hbits; cases op <;> decide

theorem legalHeader_acc {op : Op} (hbits : opHeaderBits op = 0x700) (hdirection : opDirection op = none)
    (acc : Access) : LegalHeader op (headerAcc op acc) where
  names := by simp [headerAcc]
  faultless := by
    obtain ⟨sup, dat, write⟩ := acc
    revert sup dat write hbits hdirection
    cases op <;> decide

theorem legalHeader_sd {op : Op} {wr : Bool} (hbits : opHeaderBits op = 0x700) (hdirection : opDirection op = some wr)
    (s d : Bool) : LegalHeader op (headerSd op s d wr) where
  names := by simp [headerSd]
  faultless := by
    revert s d wr hbits hdirection
    cases op <;> decide

theorem legalHeader_fc {op : Op} (hbits : opHeaderBits op = 0x3800) (fc : BitVec 3) :
    LegalHeader op (headerWord op false false false fc false false false) where
  names := by simp
  faultless := by
    revert fc hbits
    cases op <;> decide

theorem legalHeader_atcInsert (s d ci wp m : Bool) :
    LegalHeader .atcInsert (headerWord .atcInsert s d false 0 ci wp m) where
  names := by simp
  faultless := by revert s d ci wp m; decide

/-! ### A legal header is the one the encoder writes from its fields -/

section
variable {op : Op} {h : Word} (hl : LegalHeader op h)
include hl

theorem LegalHeader.toNat_lt : h.toNat < 2 ^ 17 :=
  have ⟨hreserved, _, _⟩ := (headerFault_eq_none_iff op h).mp hl.faultless
  (and_highMask_eq_zero_iff h (n := 17) (by decide)).mp hreserved

/-- No bit of a legal header is outside OP and the fields of R160. -/
theorem LegalHeader.eq_headerWord : h = headerWord op (headerS h) (headerD h) (headerWr h) (headerFc h) (headerCi h)
    (headerWp h) (headerM h) := by
  apply BitVec.eq_of_toNat_eq
  have hlt := hl.toNat_lt
  rw [headerWord_toNat, hl.names, headerOp_eq, headerS, headerD, headerWr, headerFc, headerCi, headerWp, headerM]
  simp only [toNat_getLsbD, BitVec.extractLsb'_toNat, Nat.shiftRight_eq_div_pow]
  omega

/-- A field that the operation does not use is zero (R163). -/
theorem LegalHeader.unused_eq_false {field : Word} {k : Nat} (hfield : opHeaderBits op &&& field = 0)
    (hk : field.getLsbD k = true) (hop : (0xFF : Word).getLsbD k = false) : h.getLsbD k = false := by
  obtain ⟨-, hunused, -⟩ := (headerFault_eq_none_iff op h).mp hl.faultless
  have hlt : k < 32 := BitVec.lt_of_getLsbD hk
  have hnot : (opHeaderBits op).getLsbD k = false := getLsbD_eq_false_of_and_eq_zero hfield hk
  refine getLsbD_eq_false_of_and_eq_zero hunused ?_
  rw [BitVec.getLsbD_not, BitVec.getLsbD_or, hnot, hop]
  simp [hlt]

theorem LegalHeader.access_unused (hfield : opHeaderBits op &&& 0x700 = 0) :
    headerS h = false ∧ headerD h = false ∧ headerWr h = false :=
  ⟨hl.unused_eq_false hfield rfl rfl, hl.unused_eq_false hfield rfl rfl, hl.unused_eq_false hfield rfl rfl⟩

theorem LegalHeader.fc_unused (hfield : opHeaderBits op &&& 0x3800 = 0) : headerFc h = 0 := by
  have hbits : ∀ k < 3, (0x3800 : Word).getLsbD (11 + k) = true ∧ (0xFF : Word).getLsbD (11 + k) = false := by decide
  refine BitVec.eq_of_getLsbD_eq fun k hk => ?_
  obtain ⟨hin, hop⟩ := hbits k hk
  rw [headerFc, BitVec.getLsbD_extractLsb', hl.unused_eq_false hfield hin hop]
  simp

theorem LegalHeader.metadata_unused (hfield : opHeaderBits op &&& 0x1C000 = 0) :
    headerCi h = false ∧ headerWp h = false ∧ headerM h = false :=
  ⟨hl.unused_eq_false hfield rfl rfl, hl.unused_eq_false hfield rfl rfl, hl.unused_eq_false hfield rfl rfl⟩

theorem LegalHeader.headerWr_eq {wr : Bool} (hdirection : opDirection op = some wr) : headerWr h = wr :=
  have ⟨_, _, hwr⟩ := (headerFault_eq_none_iff op h).mp hl.faultless
  hwr wr hdirection

theorem LegalHeader.eq_plain (hbits : opHeaderBits op = 0) : headerPlain op = h := by
  obtain ⟨hs, hd, hwr⟩ := hl.access_unused (by rw [hbits]; rfl)
  obtain ⟨hci, hwp, hm⟩ := hl.metadata_unused (by rw [hbits]; rfl)
  have hh := hl.eq_headerWord
  rw [hs, hd, hwr, hci, hwp, hm, hl.fc_unused (by rw [hbits]; rfl)] at hh
  exact hh.symm

theorem LegalHeader.eq_acc (hbits : opHeaderBits op = 0x700) : headerAcc op (headerAccess h) = h := by
  obtain ⟨hci, hwp, hm⟩ := hl.metadata_unused (by rw [hbits]; rfl)
  have hh := hl.eq_headerWord
  rw [hci, hwp, hm, hl.fc_unused (by rw [hbits]; rfl)] at hh
  exact hh.symm

theorem LegalHeader.eq_sd {wr : Bool} (hbits : opHeaderBits op = 0x700) (hdirection : opDirection op = some wr) :
    headerSd op (headerS h) (headerD h) wr = h := by
  have hacc := hl.eq_acc hbits
  rw [headerAcc, headerAccess, hl.headerWr_eq hdirection] at hacc
  exact hacc

theorem LegalHeader.eq_fc (hbits : opHeaderBits op = 0x3800) :
    headerWord op false false false (headerFc h) false false false = h := by
  obtain ⟨hs, hd, hwr⟩ := hl.access_unused (by rw [hbits]; rfl)
  obtain ⟨hci, hwp, hm⟩ := hl.metadata_unused (by rw [hbits]; rfl)
  have hh := hl.eq_headerWord
  rw [hs, hd, hwr, hci, hwp, hm] at hh
  exact hh.symm

end

theorem LegalHeader.eq_atcInsert {h : Word} (hl : LegalHeader .atcInsert h) :
    headerWord .atcInsert (headerS h) (headerD h) false 0 (headerCi h) (headerWp h) (headerM h) = h := by
  have hwr : headerWr h = false := hl.unused_eq_false (field := 0x400) rfl rfl rfl
  have hh := hl.eq_headerWord
  rw [hwr, hl.fc_unused rfl] at hh
  exact hh.symm

/-! ### Operand words

What each reader of operand words accepts, and that the encoder's writers are inverse to it. -/

section
variable {args : List Word} {i : Instr}

theorem operands0_eq_instr {j : Instr} : operands0 args j = .instr i ↔ args = [] ∧ j = i := by
  unfold operands0
  split <;> simp_all

theorem operands1_eq_instr {k : Word → Decoded} : operands1 args k = .instr i ↔ ∃ a, args = [a] ∧ k a = .instr i := by
  unfold operands1
  split <;> simp_all

theorem operands2_eq_instr {k : Word → Word → Decoded} :
    operands2 args k = .instr i ↔ ∃ a b, args = [a, b] ∧ k a b = .instr i := by
  unfold operands2
  split <;> simp_all

theorem operands3_eq_instr {k : Word → Word → Word → Decoded} :
    operands3 args k = .instr i ↔ ∃ a b c, args = [a, b, c] ∧ k a b c = .instr i := by
  unfold operands3
  split <;> simp_all

end

/-- A word keeps its value through a narrower width where its bits from `n` up are zero. -/
theorem setWidth_setWidth_eq_iff (v : Word) (n : Nat) : (v.setWidth n).setWidth 32 = v ↔ v.toNat < 2 ^ n := by
  have hpos : 0 < 2 ^ n := Nat.two_pow_pos n
  have hlt : v.toNat % 2 ^ n < 2 ^ 32 := Nat.lt_of_le_of_lt (Nat.mod_le ..) v.isLt
  rw [← BitVec.toNat_inj, BitVec.toNat_setWidth, BitVec.toNat_setWidth, Nat.mod_eq_of_lt hlt,
    Nat.mod_eq_iff_lt hpos.ne']

theorem value8_eq (v : Word) (k : Byte → Instr) :
    value8 v k = if v.toNat < 2 ^ 8 then .instr (k (v.setWidth 8)) else .reject .valueTooWide :=
  if_congr (and_highMask_eq_zero_iff v (n := 8) (by decide)) rfl rfl

theorem value16_eq (v : Word) (k : Half → Instr) :
    value16 v k = if v.toNat < 2 ^ 16 then .instr (k (v.setWidth 16)) else .reject .valueTooWide :=
  if_congr (and_highMask_eq_zero_iff v (n := 16) (by decide)) rfl rfl

/-- The value operand of a narrower width, read where it fits (R163). -/
theorem narrow_eq_instr {n : Nat} (hn : n ≤ 32) {v : Word} {k : BitVec n → Instr} {i : Instr} :
    (if v.toNat < 2 ^ n then .instr (k (v.setWidth n)) else .reject .valueTooWide : Decoded) = .instr i
      ↔ ∃ b : BitVec n, b.setWidth 32 = v ∧ k b = i := by
  constructor
  · intro h
    split at h
    · rename_i hlt
      exact ⟨_, (setWidth_setWidth_eq_iff v n).mpr hlt, Decoded.instr.inj h⟩
    · cases h
  · rintro ⟨b, rfl, rfl⟩
    have hb : (b.setWidth 32).setWidth n = b := by simp [BitVec.setWidth_setWidth_of_le, hn]
    rw [if_pos ((setWidth_setWidth_eq_iff _ n).mp (by rw [hb])), hb]

theorem value8_eq_instr {v : Word} {k : Byte → Instr} {i : Instr} :
    value8 v k = .instr i ↔ ∃ b : Byte, b.setWidth 32 = v ∧ k b = i := by
  rw [value8_eq, narrow_eq_instr (by decide)]

theorem value16_eq_instr {v : Word} {k : Half → Instr} {i : Instr} :
    value16 v k = .instr i ↔ ∃ b : Half, b.setWidth 32 = v ∧ k b = i := by
  rw [value16_eq, narrow_eq_instr (by decide)]

theorem quadHi_value64 (hi lo : Word) : quadHi (value64 hi lo) = hi := by
  refine BitVec.eq_of_getLsbD_eq fun k hk => ?_
  have hplace : 32 + k < 64 ∧ k < 64 := by omega
  simp [quadHi, value64, hk, hplace]

theorem quadLo_value64 (hi lo : Word) : quadLo (value64 hi lo) = lo := by
  refine BitVec.eq_of_getLsbD_eq fun k hk => ?_
  simp [quadLo, value64, hk]

theorem value64_quadHi_quadLo (v : Quad) : value64 (quadHi v) (quadLo v) = v := by
  refine BitVec.eq_of_getLsbD_eq fun k hk => ?_
  by_cases hlow : k < 32
  · simp [value64, quadLo, hlow, hk]
  · have hplace : k - 32 < 32 ∧ 32 + (k - 32) = k := by omega
    simp [value64, quadHi, quadLo, hlow, hk, hplace]

/-- The codes of R164 are those of the banks that have one: each bank has one code, and each code one bank. -/
theorem bankOfCode_eq_some_iff {c : Word} {b : BankRef} :
    bankOfCode c = some b ↔ codeOfBank b = c ∧ b.encodable = true := by
  constructor
  · intro h
    unfold bankOfCode at h
    split_ifs at h with hram <;> cases h
    · simp only [codeOfBank, BankRef.encodable, Nat.add_sub_cancel' hram, Nat.sub_add_cancel hram, BitVec.ofNat_toNat,
        BitVec.setWidth_eq, decide_eq_true_eq, true_and]
      exact c.isLt
    all_goals exact ⟨by simp_all [codeOfBank], rfl⟩
  · rintro ⟨rfl, hb⟩
    cases b with
    | ram n =>
      have hn : n + 0x100 < 2 ^ 32 := by simpa [BankRef.encodable] using hb
      have hcode : (codeOfBank (.ram n)).toNat = 0x100 + n := by
        rw [codeOfBank, BitVec.toNat_ofNat, Nat.mod_eq_of_lt (by omega)]
      rw [bankOfCode, hcode, if_pos (Nat.le_add_right ..), Nat.add_sub_cancel_left]
    | rom | videoMono | videoColor | empty | busErr | io => rfl

theorem assemble_snapRestore_eq_instr {h : Word} {args : List Word} {i : Instr} :
    assemble .snapRestore h args = .instr i ↔ args.length = 54 ∧ .snapRestore args = i := by
  simp only [assemble]
  split <;> simp [*]

/-! ### Calls -/

/-- Settles O1: every header the encoder writes is legal, its fields read back, and so do the operand words. -/
theorem decodeReadsBackEncode : Obligations.DecodeReadsBackEncode := by
  intro i hi
  cases i with
  | wrTc | wrTt0 | wrTt1 | rdTc | rdSrp | rdCrp | rdTt0 | rdTt1 | rdMmusr | flushAll | pread8 | pread16 | pread32
  | pwrite32 | toHost | boundsCheck | regionName | queryDecoded | snapSave | mmuReset | coldReset =>
    exact decode_of_legal (legalHeader_plain rfl) _
  | wrSrp v | wrCrp v =>
    refine (decode_of_legal (legalHeader_plain rfl) _).trans ?_
    simp only [assemble, operands2, value64_quadHi_quadLo]
  | wrMmusr v =>
    exact (decode_of_legal (legalHeader_plain rfl) _).trans (value16_eq_instr.mpr ⟨v, rfl, rfl⟩)
  | pwrite8 pa v => exact (decode_of_legal (legalHeader_plain rfl) _).trans (value8_eq_instr.mpr ⟨v, rfl, rfl⟩)
  | pwrite16 pa v => exact (decode_of_legal (legalHeader_plain rfl) _).trans (value16_eq_instr.mpr ⟨v, rfl, rfl⟩)
  | translate acc la | tt0Match acc la | tt1Match acc la | walk acc la | atcLookup acc la =>
    refine (decode_of_legal (legalHeader_acc rfl rfl acc) _).trans ?_
    simp [assemble, operands1, headerAccess, headerAcc]
  | atcInsert s d ci wp m la pa =>
    refine (decode_of_legal (legalHeader_atcInsert s d ci wp m) _).trans ?_
    simp [assemble, operands2]
  | flushFc fc =>
    refine (decode_of_legal (legalHeader_fc rfl fc) _).trans ?_
    simp [assemble, operands0]
  | flushPage fc la =>
    refine (decode_of_legal (legalHeader_fc rfl fc) _).trans ?_
    simp [assemble, operands1]
  | lread8 s d la | lread16 s d la | lread32 s d la =>
    refine (decode_of_legal (legalHeader_sd rfl rfl s d) _).trans ?_
    simp [assemble, operands1, headerSd]
  | lwrite8 s d la v | lwrite16 s d la v | lwrite32 s d la v =>
    refine (decode_of_legal (legalHeader_sd rfl rfl s d) _).trans ?_
    simp [assemble, operands2, headerSd, value8_eq_instr, value16_eq_instr]
  | map bank start count =>
    refine (decode_of_legal (legalHeader_plain rfl) _).trans ?_
    simp only [assemble, operands3, bankOfCode_eq_some_iff.mpr ⟨rfl, hi⟩]
  | snapRestore view =>
    have hlength : view.length = 54 := by simpa [Instr.wellFormed, viewLengthOk] using hi
    exact (decode_of_legal (legalHeader_plain rfl) _).trans (assemble_snapRestore_eq_instr.mpr ⟨hlength, rfl⟩)

/-- The command of a legal header and its operand words has no other encoding. -/
theorem encode_of_assemble {op : Op} {h : Word} {args : List Word} {i : Instr} (hl : LegalHeader op h)
    (ha : assemble op h args = .instr i) : encode i = h :: args ∧ i.wellFormed = true := by
  cases op with
  | rdTc | rdSrp | rdCrp | rdTt0 | rdTt1 | rdMmusr | flushAll | queryDecoded | snapSave | mmuReset | coldReset =>
    obtain ⟨rfl, rfl⟩ := operands0_eq_instr.mp ha
    obtain rfl := hl.eq_plain rfl
    exact ⟨rfl, rfl⟩
  | wrTc | wrTt0 | wrTt1 | pread8 | pread16 | pread32 | toHost | regionName =>
    obtain ⟨a, rfl, ha⟩ := operands1_eq_instr.mp ha
    obtain rfl := Decoded.instr.inj ha
    obtain rfl := hl.eq_plain rfl
    exact ⟨rfl, rfl⟩
  | pwrite32 | boundsCheck =>
    obtain ⟨a, b, rfl, ha⟩ := operands2_eq_instr.mp ha
    obtain rfl := Decoded.instr.inj ha
    obtain rfl := hl.eq_plain rfl
    exact ⟨rfl, rfl⟩
  | wrSrp | wrCrp =>
    obtain ⟨hi, lo, rfl, ha⟩ := operands2_eq_instr.mp ha
    obtain rfl := Decoded.instr.inj ha
    obtain rfl := hl.eq_plain rfl
    exact ⟨by rw [encode, quadHi_value64, quadLo_value64], rfl⟩
  | wrMmusr =>
    obtain ⟨a, rfl, ha⟩ := operands1_eq_instr.mp ha
    obtain ⟨v, rfl, rfl⟩ := value16_eq_instr.mp ha
    obtain rfl := hl.eq_plain rfl
    exact ⟨rfl, rfl⟩
  | pwrite8 =>
    obtain ⟨pa, b, rfl, ha⟩ := operands2_eq_instr.mp ha
    obtain ⟨v, rfl, rfl⟩ := value8_eq_instr.mp ha
    obtain rfl := hl.eq_plain rfl
    exact ⟨rfl, rfl⟩
  | pwrite16 =>
    obtain ⟨pa, b, rfl, ha⟩ := operands2_eq_instr.mp ha
    obtain ⟨v, rfl, rfl⟩ := value16_eq_instr.mp ha
    obtain rfl := hl.eq_plain rfl
    exact ⟨rfl, rfl⟩
  | translate | tt0Match | tt1Match | walk | atcLookup =>
    obtain ⟨la, rfl, ha⟩ := operands1_eq_instr.mp ha
    obtain rfl := Decoded.instr.inj ha
    exact ⟨by rw [encode, hl.eq_acc rfl], rfl⟩
  | atcInsert =>
    obtain ⟨la, pa, rfl, ha⟩ := operands2_eq_instr.mp ha
    obtain rfl := Decoded.instr.inj ha
    exact ⟨by rw [encode, hl.eq_atcInsert], rfl⟩
  | flushFc =>
    obtain ⟨rfl, rfl⟩ := operands0_eq_instr.mp ha
    exact ⟨by rw [encode, hl.eq_fc rfl], rfl⟩
  | flushPage =>
    obtain ⟨la, rfl, ha⟩ := operands1_eq_instr.mp ha
    obtain rfl := Decoded.instr.inj ha
    exact ⟨by rw [encode, hl.eq_fc rfl], rfl⟩
  | lread8 | lread16 | lread32 =>
    obtain ⟨la, rfl, ha⟩ := operands1_eq_instr.mp ha
    obtain rfl := Decoded.instr.inj ha
    exact ⟨by rw [encode, hl.eq_sd rfl rfl], rfl⟩
  | lwrite8 =>
    obtain ⟨la, b, rfl, ha⟩ := operands2_eq_instr.mp ha
    obtain ⟨v, rfl, rfl⟩ := value8_eq_instr.mp ha
    exact ⟨by rw [encode, hl.eq_sd rfl rfl], rfl⟩
  | lwrite16 =>
    obtain ⟨la, b, rfl, ha⟩ := operands2_eq_instr.mp ha
    obtain ⟨v, rfl, rfl⟩ := value16_eq_instr.mp ha
    exact ⟨by rw [encode, hl.eq_sd rfl rfl], rfl⟩
  | lwrite32 =>
    obtain ⟨la, v, rfl, ha⟩ := operands2_eq_instr.mp ha
    obtain rfl := Decoded.instr.inj ha
    exact ⟨by rw [encode, hl.eq_sd rfl rfl], rfl⟩
  | map =>
    obtain ⟨c, start, count, rfl, hmap⟩ := operands3_eq_instr.mp ha
    obtain rfl := hl.eq_plain rfl
    split at hmap
    · rename_i b hb
      obtain ⟨rfl, hencodable⟩ := bankOfCode_eq_some_iff.mp hb
      obtain rfl := Decoded.instr.inj hmap
      exact ⟨rfl, hencodable⟩
    · cases hmap
  | snapRestore =>
    obtain rfl := hl.eq_plain rfl
    obtain ⟨hlength, rfl⟩ := assemble_snapRestore_eq_instr.mp ha
    exact ⟨rfl, by rw [Instr.wellFormed, viewLengthOk, hlength]; rfl⟩

/-- Settles O2: a call that decodes is a legal header and the operand words of its operation, which are what the
encoder writes for the command they make. -/
theorem decodedCallIsItsEncoding : Obligations.DecodedCallIsItsEncoding := by
  intro words i hi
  obtain ⟨op, h, args, rfl, hl, ha⟩ := legal_of_decode hi
  exact encode_of_assemble hl ha

/-- Settles O6: each call is the encoding of its command, and so decodes to it (O1). -/
theorem writtenWordsDecode : Obligations.WrittenWordsDecode :=
  ⟨decodeReadsBackEncode (.wrTc 0x80C0AA00) rfl, decodeReadsBackEncode (.wrCrp 0x800100030010000F) rfl,
    decodeReadsBackEncode (.lread32 true true 0x04801234) rfl,
    decodeReadsBackEncode (.lwrite32 true true 0x04801000 0xCAFEF00D) rfl,
    decodeReadsBackEncode (.translate ⟨false, true, true⟩ 0xFF001234) rfl,
    decodeReadsBackEncode (.flushPage 1 0x00000FFC) rfl,
    decodeReadsBackEncode (.atcInsert false true true true true 0x00007000 0x04107000) rfl,
    decodeReadsBackEncode (.map .io 0x300 0x10) rfl, decodeReadsBackEncode (.pwrite16 0x03050002 0xBEEF) rfl⟩

end Sys2Proof
end

section
/-! PROOFS. The call at the head of the inbox: a decoded command runs in the state from which its call has been taken
(R161, R400), and each illegal call of R163 is refused. -/

namespace Sys2Proof.Machine

/-! ### Calls that decode -/

/-- Settles O4: a call at the head of the inbox is taken and decoded, and its command run. -/
theorem stepRunsDecodedCommand : Obligations.StepRunsDecodedCommand := by
  intro s words pc rest i hi
  change runCall words (takeCall rest pc s) = _
  rw [runCall, hi]
  rfl

/-! ### The opcode table -/

theorem opCode_injective {op op' : Op} (h : opCode op = opCode op') : op = op' := by
  have hsome := opOfCode_opCode op
  rw [h, opOfCode_opCode] at hsome
  exact (Option.some.inj hsome).symm

/-- The table of R160 and R162 is the one the decoder works by. -/
theorem opcodeRows_eq : opcodeRows = opAll.map fun op => (opCode op, opHeaderBits op) := by decide

theorem mem_opcodeRows_iff {row : Nat × Word} :
    row ∈ opcodeRows ↔ ∃ op, row = (opCode op, opHeaderBits op) := by
  have hall : ∀ op, op ∈ opAll := by intro op; cases op <;> decide
  simp [opcodeRows_eq, hall, eq_comm]

/-! ### Calls that do not decode -/

/-- The decoder rejects a call, and not as a view of the wrong length, which has another refusal (R421). -/
def Rejected (words : List Word) : Prop := ∃ r, r ≠ .viewLength ∧ decode words = .reject r

/-- A call is rejected unless its header is legal and its operand words are accepted (R163). -/
theorem rejected_of_legal {h : Word} {args : List Word}
    (hlegal : ∀ op, LegalHeader op h → ∃ r, r ≠ .viewLength ∧ assemble op h args = .reject r) :
    Rejected (h :: args) := by
  cases hop : opOfCode (headerOp h) with
  | none => exact ⟨.unknownOpcode, nofun, by simp only [decode, hop]⟩
  | some op =>
    cases hfault : headerFault op h with
    | some r =>
      refine ⟨r, ?_, by simp only [decode, hop, hfault]⟩
      rintro rfl
      exact headerFault_ne_viewLength hfault
    | none =>
      have hl : LegalHeader op h := ⟨opCode_of_opOfCode hop, hfault⟩
      obtain ⟨r, hr, hassemble⟩ := hlegal op hl
      exact ⟨r, hr, (decode_of_legal hl args).trans hassemble⟩

theorem step_of_rejected {words : List Word} (hr : Rejected words) (s : State) (pc : Word) (rest : List HostEvent) :
    step { s with inbox := .call words pc :: rest }
      = .next (refusedWith { s with inbox := rest, diagPc := pc } .illegalCommand) := by
  obtain ⟨r, hview, hdecode⟩ := hr
  obtain ⟨-, -, hreject, -⟩ := stepTakesHostEvents s rest
  rw [hreject words pc r hdecode, if_neg hview]

/-- A MAP of a bank that the parameters do not declare is refused by MAP itself (R164). -/
theorem exec_map_undeclared {bank : BankRef} {s : State} (hbank : legalBank s.params bank = false)
    (start count : Word) : exec (.map bank start count) s = .next (refusedWith s .illegalCommand) := by
  rw [exec_eq_deliver, operation, mapRange, if_pos hbank]
  rfl

/-- What becomes of an illegal call: the decoder rejects it, or it is a MAP of a bank that is not declared. -/
inductive Refusable (p : Params) (words : List Word) : Prop
  | rejected (hr : Rejected words)
  | undeclared (bank : BankRef) (start count : Word) (hdecode : decode words = .instr (.map bank start count))
      (hbank : legalBank p bank = false)

theorem step_of_refusable {s : State} {words : List Word} (hr : Refusable s.params words) (pc : Word)
    (rest : List HostEvent) : step { s with inbox := .call words pc :: rest }
      = .next (refusedWith { s with inbox := rest, diagPc := pc } .illegalCommand) := by
  cases hr with
  | rejected hr => exact step_of_rejected hr s pc rest
  | undeclared bank start count hdecode hbank =>
    rw [stepRunsDecodedCommand s words pc rest _ hdecode]
    exact exec_map_undeclared (s := { s with inbox := rest, diagPc := pc }) hbank start count

/-! ### The cases of R163 -/

/-- A header at fault: no operation has it as a legal header. -/
theorem Refusable.of_header {p : Params} {h : Word} {args : List Word} (hno : ∀ op, ¬ LegalHeader op h) :
    Refusable p (h :: args) :=
  .rejected (rejected_of_legal fun op hl => absurd hl (hno op))

/-- A value operand wider than its width, of each operation that such a header may name. -/
theorem Refusable.of_wide {p : Params} {h : Word} {args : List Word}
    (hwide : ∀ op, LegalHeader op h → assemble op h args = .reject .valueTooWide) : Refusable p (h :: args) :=
  .rejected (rejected_of_legal fun op hl => ⟨.valueTooWide, nofun, hwide op hl⟩)

theorem opDirection_of_read {op : Op} (h : opCode op ∈ [0x30, 0x31, 0x32]) : opDirection op = some false := by
  revert h; cases op <;> decide

theorem opDirection_of_write {op : Op} (h : opCode op ∈ [0x34, 0x35, 0x36]) : opDirection op = some true := by
  revert h; cases op <;> decide

theorem op_of_byteWrite {op : Op} (h : opCode op ∈ [0x34, 0x44]) : op = .lwrite8 ∨ op = .pwrite8 := by
  revert h; cases op <;> decide

theorem op_of_wordWrite {op : Op} (h : opCode op ∈ [0x35, 0x45]) : op = .lwrite16 ∨ op = .pwrite16 := by
  revert h; cases op <;> decide

theorem value8_wide {v : Word} (hv : 2 ^ 8 ≤ v.toNat) (k : Byte → Instr) : value8 v k = .reject .valueTooWide := by
  rw [value8_eq, if_neg (Nat.not_lt.mpr hv)]

theorem value16_wide {v : Word} (hv : 2 ^ 16 ≤ v.toNat) (k : Half → Instr) :
    value16 v k = .reject .valueTooWide := by
  rw [value16_eq, if_neg (Nat.not_lt.mpr hv)]

/-- A code below 0x100 that R164 does not list. -/
theorem bankOfCode_unlisted {c : Word} (hlow : 6 ≤ c.toNat) (hc : c.toNat < 0x100) : bankOfCode c = none := by
  refine Option.eq_none_iff_forall_ne_some.mpr fun b hb => ?_
  obtain ⟨rfl, hencodable⟩ := bankOfCode_eq_some_iff.mp hb
  cases b with
  | ram n =>
    have hn : n + 0x100 < 2 ^ 32 := by simpa [BankRef.encodable] using hencodable
    rw [codeOfBank, BitVec.toNat_ofNat] at hc
    omega
  | rom | videoMono | videoColor | empty | busErr | io => exact absurd hlow (by decide)

/-- A MAP whose bank code R164 does not give (R163). -/
theorem Refusable.of_map {p : Params} {h c start count : Word} (hop : h.toNat % 256 = 0x4A) (hlow : 6 ≤ c.toNat)
    (hcode : c.toNat < 0x100 ∨ 0x100 + p.ram.length ≤ c.toNat) : Refusable p [h, c, start, count] := by
  have hmap : ∀ op, LegalHeader op h → op = .map := fun op hl =>
    opCode_injective (hl.opCode_eq.symm.trans hop)
  rcases hcode with hcode | hcode
  · refine .rejected (rejected_of_legal fun op hl => ⟨.badBank, nofun, ?_⟩)
    obtain rfl := hmap op hl
    simp only [assemble, operands3, bankOfCode_unlisted hlow hcode]
  · by_cases hl : LegalHeader .map h
    · have hram : 0x100 ≤ c.toNat := by omega
      refine .undeclared (.ram (c.toNat - 0x100)) start count ?_ ?_
      · rw [decode_of_legal hl]
        simp only [assemble, operands3, bankOfCode, hram, if_true]
      · simp [legalBank]
        omega
    · exact .of_header fun op hlegal => hl (hmap op hlegal ▸ hlegal)

theorem IllegalCall.refusable {p : Params} {h : Word} {args : List Word} (hi : IllegalCall p h args) :
    Refusable p (h :: args) := by
  cases hi with
  | unknownOp hunlisted =>
    exact .of_header fun op hl => hunlisted _ (mem_opcodeRows_iff.mpr ⟨op, rfl⟩) hl.opCode_eq.symm
  | reservedBit hset =>
    refine .of_header fun op hl => ?_
    obtain ⟨hreserved, -, -⟩ := (headerFault_eq_none_iff op h).mp hl.faultless
    exact hset hreserved
  | unusedBit row hlisted hop hset =>
    refine .of_header fun op hl => ?_
    obtain ⟨-, hunused, -⟩ := (headerFault_eq_none_iff op h).mp hl.faultless
    obtain ⟨op', rfl⟩ := mem_opcodeRows_iff.mp hlisted
    obtain rfl := opCode_injective (hl.opCode_eq.symm.trans hop)
    exact hset hunused
  | readDirection hop hset =>
    refine .of_header fun op hl => ?_
    have hwr : headerWr h = false := hl.headerWr_eq (opDirection_of_read (hl.opCode_eq ▸ hop))
    exact Bool.false_ne_true (hwr.symm.trans hset)
  | writeDirection hop hclear =>
    refine .of_header fun op hl => ?_
    have hwr : headerWr h = true := hl.headerWr_eq (opDirection_of_write (hl.opCode_eq ▸ hop))
    exact Bool.false_ne_true (hclear.symm.trans hwr)
  | wideByte hop a v hargs hwide =>
    subst hargs
    refine .of_wide fun op hl => ?_
    obtain rfl | rfl := op_of_byteWrite (hl.opCode_eq ▸ hop)
    · exact value8_wide hwide _
    · exact value8_wide hwide _
  | wideWord hop a v hargs hwide =>
    subst hargs
    refine .of_wide fun op hl => ?_
    obtain rfl | rfl := op_of_wordWrite (hl.opCode_eq ▸ hop)
    · exact value16_wide hwide _
    · exact value16_wide hwide _
  | wideStatus hop v hargs hwide =>
    subst hargs
    refine .of_wide fun op hl => ?_
    obtain rfl := opCode_injective (op' := .wrMmusr) (hl.opCode_eq.symm.trans hop)
    exact value16_wide hwide _
  | badBank hop c start count hargs hlow hcode =>
    subst hargs
    exact .of_map hop hlow hcode

/-- Settles O3: in each case of R163 the decoder rejects the call or MAP refuses its bank, and both answer the same. -/
theorem illegalCallsAreRefused : Obligations.IllegalCallsAreRefused :=
  fun _ _ _ pc rest hi => step_of_refusable hi.refusable pc rest

end Sys2Proof.Machine
end

section
/-! PROOFS. Where the entries of the ATC come from (R41, R42): each entry after an operation is an old one, an old one
invalidated, one that an insertion makes under a modelled TC, one that a restore unpacks, or the zero entry. All of
them have page fields whose bits 7:0 are zero (R150). -/

namespace Sys2Proof.Machine

/-- The entries that an operation in state `s` may leave in the ATC. -/
inductive EntryFrom (s : State) : AtcEntry → Prop
  | kept {e : AtcEntry} (he : e ∈ s.atc) : EntryFrom s e
  | invalidated {e : AtcEntry} (he : e ∈ s.atc) : EntryFrom s { e with valid := false }
  | inserted (hmodelled : s.regs.tc.tcUnmodelled = false) (la : Word) (fc : BitVec 3) (pa : Word) (ci wp m : Bool) :
      EntryFrom s (newEntry s.regs.tc.pageMask la fc pa ci wp m)
  | restored (tag phys : Word) : EntryFrom s (unpackEntry tag phys)
  | zero : EntryFrom s AtcEntry.zero

/-- Every entry of `t` is one that an operation in `s` may leave. -/
structure AtcFrom (s t : State) : Prop where
  entries : ∀ e ∈ t.atc, EntryFrom s e

theorem AtcFrom.of_eq {s t : State} (h : t.atc = s.atc) : AtcFrom s t := ⟨fun _ he => .kept (h ▸ he)⟩

theorem AtcFrom.refl (s : State) : AtcFrom s s := .of_eq rfl

theorem AtcFrom.congr {s t u : State} (h : AtcFrom s t) (hu : u.atc = t.atc) : AtcFrom s u :=
  ⟨fun e he => h.entries e (hu ▸ he)⟩

/-! ### Operations that write no entry -/

theorem physRead_atc (w : Width) (pa : Word) (s : State) : (physRead w pa s).2.atc = s.atc := by
  rw [physRead_state]
  split <;> rfl

theorem physWrite_atc (w : Width) (pa v : Word) (s : State) : (physWrite w pa v s).2.atc = s.atc := by
  rcases physWrite_state w pa v s with ⟨m, -, h⟩ | h | h <;> rw [h] <;> rfl

theorem logTcWrite_atc (s : State) (v : Word) : (logTcWrite s v).atc = s.atc := by
  unfold logTcWrite
  split <;> rfl

theorem mapRange_atc (bank : BankRef) (start count : Word) (s : State) :
    (mapRange bank start count s).2.atc = s.atc := by
  unfold mapRange
  split
  · rfl
  · split <;> rfl

/-! ### Insertions and flushes -/

theorem atcInsert_atcFrom {s u : State} (hregs : u.regs = s.regs) (hatc : u.atc = s.atc)
    (hmodelled : s.regs.tc.tcUnmodelled = false) (la : Word) (fc : BitVec 3) (pa : Word) (ci wp m : Bool) :
    AtcFrom s (atcInsert la fc pa ci wp m u) := by
  refine ⟨fun e he => ?_⟩
  rcases atcInsert_mem la fc pa ci wp m u he with hold | rfl
  · exact .kept (hatc ▸ hold)
  · rw [hregs]
    exact .inserted hmodelled ..

theorem insertCommand_atcFrom (sup dat ci wp m : Bool) (la pa : Word) (s : State) :
    AtcFrom s (insertCommand sup dat ci wp m la pa s).2 := by
  unfold insertCommand
  split
  · exact .refl s
  · rename_i hmodelled
    exact atcInsert_atcFrom rfl rfl (Bool.eq_false_of_not_eq_true hmodelled) ..

theorem atcFlush_atcFrom (pick : AtcEntry → Bool) (s : State) : AtcFrom s (atcFlush pick s) := by
  refine ⟨fun e he => ?_⟩
  rw [atcFlush_atc, List.mem_map] at he
  obtain ⟨old, hold, rfl⟩ := he
  split
  · exact .invalidated hold
  · exact .kept hold

/-! ### Translations -/

/-- A translation walks only under a modelled TC (R401). -/
theorem modelled_of_locate_walk {la : Word} {acc : Access} {s : State} {r : Translation}
    (h : (locate la acc s).1 = .ok r) (hvia : r.via = .walk) : s.regs.tc.tcUnmodelled = false := by
  unfold locate at h
  split at h
  · rename_i hwindow
    cases h
    rcases ttResolve_hit_via hwindow with hw | hw <;> simp [hw] at hvia
  · cases h
  · split at h
    · cases h
      simp [identityTranslation] at hvia
    · split at h
      · cases h
      · rename_i hmodelled
        exact Bool.eq_false_of_not_eq_true hmodelled

theorem locate_atcFrom (la : Word) (acc : Access) (s : State) : AtcFrom s (locate la acc s).2 :=
  .of_eq (locate_frame la acc s).atc

theorem translate_atcFrom (la : Word) (acc : Access) (s : State) : AtcFrom s (translate la acc s).2 := by
  have hframe := locate_frame la acc s
  have hwalk := fun r => modelled_of_locate_walk (la := la) (acc := acc) (s := s) (r := r)
  unfold translate
  rcases hlocate : locate la acc s with ⟨r | f | q, u⟩ <;> rw [hlocate] at hframe hwalk
  · rw [andThen_ok, fillAtc]
    split
    · rename_i hvia
      exact atcInsert_atcFrom hframe.regs hframe.atc (hwalk r rfl hvia) ..
    · exact .of_eq hframe.atc
  · exact .of_eq hframe.atc
  · exact .of_eq hframe.atc

theorem logicalRead_atcFrom (w : Width) (la : Word) (acc : Access) (s : State) :
    AtcFrom s (logicalRead w la acc s).2 := by
  rcases logicalRead_state w la acc s with h | h | h | ⟨pa, h⟩ <;> rw [h]
  · exact .refl s
  · exact locate_atcFrom la acc s
  · exact translate_atcFrom la acc s
  · exact (translate_atcFrom la acc s).congr rfl

theorem logicalWrite_atcFrom (w : Width) (la : Word) (acc : Access) (v : Word) (s : State) :
    AtcFrom s (logicalWrite w la acc v s).2 := by
  rcases logicalWrite_state w la acc v s with h | h | ⟨r, u, htranslate, h⟩ <;> rw [h]
  · exact .refl s
  · exact locate_atcFrom la acc s
  · have hu := translate_atcFrom la acc s
    rw [htranslate] at hu
    exact hu.congr (physWrite_atc w r.pa v u)

/-! ### Restore and resets -/

theorem mem_unpackAll {e : AtcEntry} : ∀ {l : List Word}, e ∈ unpackAll l → ∃ tag phys, e = unpackEntry tag phys
  | [], h => by cases h
  | [_], h => by cases h
  | tag :: phys :: l, h => by
    rcases List.mem_cons.mp h with rfl | hrest
    · exact ⟨tag, phys, rfl⟩
    · exact mem_unpackAll hrest

theorem restore_atcFrom (view : List Word) (s : State) : AtcFrom s (restore view s).2 := by
  unfold restore
  split
  · refine ⟨fun e he => ?_⟩
    obtain ⟨tag, phys, rfl⟩ := mem_unpackAll he
    exact .restored tag phys
  · exact .refl s

theorem atcFrom_zeroAtc {s t : State} (h : t.atc = zeroAtc) : AtcFrom s t := by
  refine ⟨fun e he => ?_⟩
  rw [h] at he
  obtain rfl := List.eq_of_mem_replicate he
  exact .zero

theorem coldReset_atcFrom (s : State) : AtcFrom s (coldReset s).2 := by
  unfold coldReset
  split
  · exact atcFrom_zeroAtc rfl
  · exact .refl s

/-! ### Every operation -/

theorem operation_atcFrom (i : Instr) (s : State) : AtcFrom s (operation i s).2 := by
  cases i with
  | atcInsert => exact insertCommand_atcFrom ..
  | flushAll | flushFc | flushPage => exact atcFlush_atcFrom _ s
  | translate acc la => exact (translate_atcFrom la acc s).congr (by rw [operation, mapAns_snd])
  | lread8 sup dat la => exact (logicalRead_atcFrom .byte la _ s).congr (by rw [operation, mapAns_snd])
  | lread16 sup dat la => exact (logicalRead_atcFrom .word la _ s).congr (by rw [operation, mapAns_snd])
  | lread32 sup dat la => exact (logicalRead_atcFrom .long la _ s).congr (by rw [operation, mapAns_snd])
  | lwrite8 | lwrite16 | lwrite32 => exact logicalWrite_atcFrom ..
  | snapRestore view => exact restore_atcFrom view s
  | mmuReset => exact atcFrom_zeroAtc rfl
  | coldReset => exact coldReset_atcFrom s
  | wrTc v => exact .of_eq (logTcWrite_atc _ v)
  | walk acc la => exact .of_eq (walkCommand_frame acc la s).atc
  | atcLookup acc la => exact .of_eq (by rw [operation, lookupCommand_snd])
  | map bank start count => exact .of_eq (mapRange_atc bank start count s)
  | pread8 | pread16 | pread32 => exact .of_eq (by rw [operation, mapAns_snd, physRead_atc])
  | pwrite8 | pwrite16 | pwrite32 => exact .of_eq (by rw [operation, physStore, mapAns_snd, physWrite_atc])
  | toHost pa => exact .of_eq (by rw [operation, mapAns_snd])
  | wrSrp | wrCrp | wrTt0 | wrTt1 | wrMmusr | rdTc | rdSrp | rdCrp | rdTt0 | rdTt1 | rdMmusr | tt0Match | tt1Match
  | boundsCheck | regionName | queryDecoded | snapSave => exact .of_eq rfl

/-! ### Alignment -/

theorem lowMask_getLsbD (n : Nat) {k : Nat} (hk : k < 32) : (lowMask n).getLsbD k = decide (k < n) := by
  rw [lowMask, BitVec.getLsbD_ofNat, Nat.testBit_two_pow_sub_one, decide_eq_true hk, Bool.true_and]

/-- A mask of at least 8 bits covers bits 7:0. -/
theorem and_not_lowMask_aligned {n : Nat} (hn : 8 ≤ n) (v : Word) : (v &&& ~~~lowMask n) &&& 0xFF = 0 := by
  refine BitVec.eq_of_getLsbD_eq fun k hk => ?_
  have hlow : (0xFF : Word).getLsbD k = decide (k < 8) := lowMask_getLsbD 8 hk
  rw [BitVec.getLsbD_and, BitVec.getLsbD_and, BitVec.getLsbD_not, lowMask_getLsbD n hk, hlow]
  by_cases hk8 : k < 8
  · have hkn : k < n := Nat.lt_of_lt_of_le hk8 hn
    simp [hkn]
  · simp [hk8]

/-- A modelled TC has PS of at least 8 (R266). -/
theorem tcPs_of_modelled {raw : Word} (hmodelled : (decodeTc raw).tcUnmodelled = false) : 8 ≤ tcPs raw := by
  have hflag : tcUnmodelledFlag (tcPs raw) (tcIs raw) (tcWidths raw) = false := hmodelled
  obtain ⟨hps, -⟩ := Bool.or_eq_false_iff.mp hflag
  exact Nat.not_lt.mp (of_decide_eq_false hps)

theorem and_pageField_aligned (v : Word) : (v &&& 0xFFFFFF00) &&& 0xFF = 0 := by
  rw [BitVec.and_assoc]
  exact BitVec.and_zero

theorem EntryFrom.aligned {s : State} {e : AtcEntry} (h : EntryFrom s e) (hdecoded : DecodedAgrees s.regs)
    (haligned : AtcAligned s) : e.ltag &&& 0xFF = 0 ∧ e.ppage &&& 0xFF = 0 := by
  cases h with
  | kept he => exact haligned e he
  | invalidated he => exact (haligned _ he :)
  | inserted hmodelled la fc pa =>
    obtain ⟨htc, -⟩ := hdecoded
    rw [htc] at hmodelled ⊢
    have hps := tcPs_of_modelled hmodelled
    exact ⟨and_not_lowMask_aligned hps la, and_not_lowMask_aligned hps pa⟩
  | restored tag phys => exact ⟨and_pageField_aligned tag, and_pageField_aligned phys⟩
  | zero => exact AtcEntry.zero_aligned

theorem operation_atcAligned (i : Instr) {s : State} (hdecoded : DecodedAgrees s.regs) (haligned : AtcAligned s) :
    AtcAligned (operation i s).2 :=
  fun e he => ((operation_atcFrom i s).entries e he).aligned hdecoded haligned

/-- Settles O20: every entry after an operation has one of the sources of `EntryFrom`, all of them aligned. The page
mask of an insertion is that of the raw TC, because every step keeps the registers' agreement too (O14). -/
theorem atcEntriesStayPageAligned : Obligations.AtcEntriesStayPageAligned := by
  intro s t hdecoded haligned h
  have hsame : ∀ {s t}, SameMachine s t → DecodedAgrees s.regs ∧ AtcAligned s → DecodedAgrees t.regs ∧ AtcAligned t :=
    fun hst ⟨hd, ha⟩ => ⟨hst.regs ▸ hd, fun e he => ha e (hst.atc ▸ he)⟩
  have hoperation : ∀ i s, DecodedAgrees s.regs ∧ AtcAligned s →
      DecodedAgrees (operation i s).2.regs ∧ AtcAligned (operation i s).2 :=
    fun i s ⟨hd, ha⟩ => ⟨(operation_effect i s).decodedAgrees hd, operation_atcAligned i hd ha⟩
  exact (step_keeps hsame hoperation ⟨hdecoded, haligned⟩ h).2

end Sys2Proof.Machine
end

section
/-! PROOFS. The packed form of an ATC entry (R150): a page field with bits 7:0 zero, and the other fields of the word in
those bits. -/

namespace Sys2Proof.Machine

/-! ### A page field and the bits below it -/

theorem and_pageField_of_aligned {v : Word} (hv : v &&& 0xFF = 0) : v &&& 0xFFFFFF00 = v :=
  (and_not_eq_zero_iff v 0xFFFFFF00).mp hv

section
variable {v low : Word} (hv : v &&& 0xFF = 0) (hlow : low.toNat < 2 ^ 8)

include hv in
theorem packed_getLsbD (low : Word) {k : Nat} (hk : (0xFF : Word).getLsbD k = true) :
    ((v &&& 0xFFFFFF00) ||| low).getLsbD k = low.getLsbD k := by
  rw [and_pageField_of_aligned hv, BitVec.getLsbD_or, getLsbD_eq_false_of_and_eq_zero hv hk, Bool.false_or]

include hv hlow

theorem packed_toNat : ((v &&& 0xFFFFFF00) ||| low).toNat = v.toNat + low.toNat := by
  have hmod : v.toNat % 2 ^ 8 = 0 := by rw [← and_0xFF_toNat, hv]; rfl
  have hpage : v.toNat = 2 ^ 8 * (v.toNat / 2 ^ 8) := by omega
  rw [and_pageField_of_aligned hv, BitVec.toNat_or, hpage, Nat.two_pow_add_eq_or_of_lt hlow]

theorem packed_pageField : ((v &&& 0xFFFFFF00) ||| low) &&& 0xFFFFFF00 = v := by
  have hclear : low &&& 0xFFFFFF00 = 0 := (and_highMask_eq_zero_iff low (n := 8) (by decide)).mpr hlow
  rw [and_pageField_of_aligned hv, BitVec.and_or_distrib_right, and_pageField_of_aligned hv, hclear]
  exact BitVec.or_zero

end

/-! ### The two words of an entry -/

/-- Bits 7:0 of `logical_tag` (R150). -/
def tagLow (fc : BitVec 3) (valid : Bool) : Word := (fc.setWidth 32 <<< 1) ||| bitAt valid 0

/-- Bits 7:0 of `physical_entry` (R150). -/
def entryLow (m wp ci b : Bool) : Word := bitAt m 3 ||| bitAt wp 2 ||| bitAt ci 1 ||| bitAt b 0

theorem packTag_eq (e : AtcEntry) : packTag e = (e.ltag &&& 0xFFFFFF00) ||| tagLow e.fc e.valid :=
  BitVec.or_assoc ..

theorem packEntry_eq (e : AtcEntry) : packEntry e = (e.ppage &&& 0xFFFFFF00) ||| entryLow e.m e.wp e.ci e.b := by
  simp only [packEntry, entryLow, BitVec.or_assoc]

theorem tagLow_toNat : ∀ fc valid, (tagLow fc valid).toNat = fc.toNat * 2 + valid.toNat := by decide

theorem tagLow_lt (fc : BitVec 3) (valid : Bool) : (tagLow fc valid).toNat < 2 ^ 8 := by
  have := fc.isLt
  have := valid.toNat_le
  rw [tagLow_toNat]
  omega

theorem tagLow_fields : ∀ fc valid,
    (tagLow fc valid).getLsbD 0 = valid ∧ (tagLow fc valid).extractLsb' 1 3 = fc := by decide

theorem entryLow_toNat : ∀ m wp ci b,
    (entryLow m wp ci b).toNat = m.toNat * 8 + wp.toNat * 4 + ci.toNat * 2 + b.toNat := by decide

theorem entryLow_lt (m wp ci b : Bool) : (entryLow m wp ci b).toNat < 2 ^ 8 := by
  have := m.toNat_le
  have := wp.toNat_le
  have := ci.toNat_le
  have := b.toNat_le
  rw [entryLow_toNat]
  omega

theorem entryLow_fields : ∀ m wp ci b, (entryLow m wp ci b).getLsbD 0 = b ∧ (entryLow m wp ci b).getLsbD 1 = ci
    ∧ (entryLow m wp ci b).getLsbD 2 = wp ∧ (entryLow m wp ci b).getLsbD 3 = m := by decide

theorem packed_extract_fc {v : Word} (hv : v &&& 0xFF = 0) (low : Word) :
    ((v &&& 0xFFFFFF00) ||| low).extractLsb' 1 3 = low.extractLsb' 1 3 := by
  have hbits : ∀ k < 3, (0xFF : Word).getLsbD (1 + k) = true := by decide
  refine BitVec.eq_of_getLsbD_eq fun k hk => ?_
  rw [BitVec.getLsbD_extractLsb', BitVec.getLsbD_extractLsb', packed_getLsbD hv low (hbits k hk)]

/-- Each field is read back from the bits it was packed in. -/
theorem unpackEntry_pack {e : AtcEntry} (htag : e.ltag &&& 0xFF = 0) (hpage : e.ppage &&& 0xFF = 0) :
    unpackEntry (packTag e) (packEntry e) = e := by
  obtain ⟨hvalid, hfc⟩ := tagLow_fields e.fc e.valid
  obtain ⟨hb, hci, hwp, hm⟩ := entryLow_fields e.m e.wp e.ci e.b
  have tagBit := fun k => packed_getLsbD htag (tagLow e.fc e.valid) (k := k)
  have entryBit := fun k => packed_getLsbD hpage (entryLow e.m e.wp e.ci e.b) (k := k)
  rw [packTag_eq, packEntry_eq, unpackEntry, packed_pageField htag (tagLow_lt ..),
    packed_pageField hpage (entryLow_lt ..), packed_extract_fc htag, tagBit 0 rfl, entryBit 0 rfl, entryBit 1 rfl,
    entryBit 2 rfl, entryBit 3 rfl, hvalid, hfc, hb, hci, hwp, hm]

/-- Settles O21: the page field and the bits below it do not overlap, so that the word is their sum and gives both
back. -/
theorem packedEntryIsLossless : Obligations.PackedEntryIsLossless := by
  intro e htag hpage
  refine ⟨?_, ?_, unpackEntry_pack htag hpage⟩
  · rw [packTag_eq, packed_toNat htag (tagLow_lt ..), tagLow_toNat, Nat.add_assoc]
  · rw [packEntry_eq, packed_toNat hpage (entryLow_lt ..), entryLow_toNat]
    simp only [Nat.add_assoc]

end Sys2Proof.Machine
end

section
/-! PROOFS. The dispatcher (R209 to R212): every step keeps the table over the 65536 slots, MAP writes its range of it,
and TO_HOST and BOUNDS_CHECK answer what the bank of the address answers. -/

namespace Sys2Proof.Machine

/-! ### Slot coverage -/

/-- Coverage speaks of the table and of the parameters in force, and of nothing else. -/
theorem SlotsCovered.congr {s t : State} (hslots : t.slots = s.slots) (hparams : t.params = s.params)
    (hs : SlotsCovered s) : SlotsCovered t := by
  rw [SlotsCovered, hslots, hparams]; exact hs

/-- Only MAP and an accepted cold reset touch the table: one sets a range inside it to a legal bank, the other builds
it from a MEMORY_MAP that R503 has checked. -/
theorem Effect.slotsCovered {i : Instr} {s t : State} (h : Effect s i t) (hs : SlotsCovered s) : SlotsCovered t := by
  cases h with
  | access h => exact hs.congr h.slots h.params
  | register _ h => exact hs.congr h.slots h.params
  | map hlegal hrange => exact tableOk_map hs hrange hlegal
  | restore => exact hs.congr rfl rfl
  | mmuReset => exact hs.congr rfl rfl
  | coldReset hconfig =>
    obtain ⟨-, hrebuilt, -⟩ := rebuilt_inv hconfig
    exact hrebuilt.congr rfl rfl

/-- Settles O32: the table is part of the machine, and every operation keeps its coverage. -/
theorem slotCoverageKept : Obligations.SlotCoverageKept := fun _ _ hs h =>
  step_keeps (fun hst hs => hs.congr hst.slots hst.params) (fun i s => (operation_effect i s).slotsCovered) hs h

/-! ### MAP -/

section
variable {bank : BankRef} {start count : Word} {s : State} (hbank : legalBank s.params bank = true)
include hbank

/-- R211: a range that runs past the table is not cut or wrapped. -/
theorem exec_map_pastEnd (hrange : numSlots < start.toNat + count.toNat) :
    exec (.map bank start count) s = .next (refusedWith s .mapRange) := by
  rw [exec_eq_deliver, operation, mapRange, hbank, if_neg nofun, if_pos hrange]
  rfl

theorem exec_map_inside (hrange : start.toNat + count.toNat ≤ numSlots) : exec (.map bank start count) s
    = .next (answered { s with slots := mapSlots s.slots start.toNat count.toNat bank } .unit) := by
  rw [exec_eq_deliver, operation, mapRange, hbank, if_neg nofun, if_neg (Nat.not_lt.mpr hrange)]
  rfl

end

/-- Settles O31: a bank is refused before its range is looked at (R454), and `mapSlots` sets the range slot by slot. -/
theorem mapWritesExactlyItsSlots : Obligations.MapWritesExactlyItsSlots := by
  intro bank start count s
  refine ⟨decodeReadsBackEncode (.map bank start count), ?_, fun hdeclared => ?_⟩
  · rintro b rfl hundeclared
    have hillegal : legalBank s.params (.ram b) = false := decide_eq_false (Nat.not_lt.mpr hundeclared)
    exact exec_map_undeclared hillegal start count
  · have hlegal := (legalBank_iff s.params bank).mpr hdeclared
    exact ⟨exec_map_pastEnd hlegal, fun hrange => ⟨_, exec_map_inside hlegal hrange, bankAt_mapSlots _ _ _ _⟩⟩

/-! ### TO_HOST and BOUNDS_CHECK -/

theorem bankToHost_ram {s : State} {b : Nat} {r : RamBank} (hr : s.params.ram[b]? = some r) (pa : Word) :
    bankToHost (.ram b) pa s = .ok ⟨.ram b, pa.toNat &&& (r.size - 1)⟩ := by
  rw [bankToHost, hr]
  rfl

section
variable {bank : BankRef} {pa : Word} {s : State} (hbank : bankAt s.slots (pa.toNat / 0x10000) = bank)
include hbank

/-- R209: the bank of the address's slot gives the host view, and the state is left as it was. -/
theorem exec_toHost :
    exec (.toHost pa) s = deliver carriesNone (mapAns .hostRef (bankToHost bank pa s, s)) := by
  subst hbank; rfl

/-- R210. -/
theorem exec_boundsCheck (size : Word) :
    exec (.boundsCheck pa size) s = .next (answered s (.bool (bankBounds bank size s.params))) := by
  subst hbank; rfl

end

/-- Settles O33: the host view and the bound of each bank. -/
theorem hostViewsAndBounds : Obligations.HostViewsAndBounds := by
  intro pa size s
  refine ⟨decodeReadsBackEncode (.toHost pa) rfl, decodeReadsBackEncode (.boundsCheck pa size) rfl, ?_⟩
  cases hbank : bankAt s.slots (pa.toNat / 0x10000) with
  | ram b =>
    intro r hr
    have hview := exec_toHost hbank
    rw [bankToHost_ram hr] at hview
    exact ⟨hview, exec_boundsCheck hbank size⟩
  | rom | videoMono | videoColor => exact ⟨exec_toHost hbank, exec_boundsCheck hbank size⟩
  | empty | busErr | io =>
    exact ⟨⟨bareFault .busError s.diagPc, rfl, exec_toHost hbank⟩, exec_boundsCheck hbank size⟩

end Sys2Proof.Machine
end

section
/-! PROOFS. The banks without a store of their own (R226, R230 to R233, R235, R237, R239): what the boot overlay, Empty,
BusErr and the I/O bank answer, and how PREAD and PWRITE end on it. -/

namespace Sys2Proof.Machine

/-! ### Accesses that end in a bus error -/

section
variable {w : Width} {pa v : Word} {s t : State}

/-- A bus error of a read is reported once and carries the value 0 (R13, R452, R453). -/
theorem exec_preadOf_of_busError (h : physRead w pa s = (.fault (bankFault pa w false s.diagPc), t)) :
    exec (preadOf w pa) s = .next (faulted t (busErrorRecord s pa w false) (some 0)) := by
  rw [exec_preadOf, h]
  rfl

theorem exec_pwriteOf_of_busError {x : Word} (hx : x.toNat = v.toNat % 2 ^ (8 * widthBytes w))
    (h : physWrite w pa x s = (.fault (bankFault pa w true s.diagPc), t)) :
    exec (pwriteOf w pa v) s = .next (faulted t (busErrorRecord s pa w true) none) := by
  rw [exec_pwriteOf hx, physStore, h]
  rfl

/-- Where both directions fault whatever is written, both commands end in the bank's bus error. -/
theorem exec_of_busErrors (hread : physRead w pa s = (.fault (bankFault pa w false s.diagPc), s))
    (hwrite : ∀ x, physWrite w pa x s = (.fault (bankFault pa w true s.diagPc), s)) :
    exec (preadOf w pa) s = .next (faulted s (busErrorRecord s pa w false) (some 0))
      ∧ exec (pwriteOf w pa v) s = .next (faulted s (busErrorRecord s pa w true) none) := by
  obtain ⟨x, hx⟩ := exists_low w v
  exact ⟨exec_preadOf_of_busError hread, exec_pwriteOf_of_busError hx (hwrite x)⟩

end

/-! ### The boot overlay (R226) -/

section
variable {w : Width} {pa : Word} {s : State}

theorem physRead_of_overlaid (h : OverlaidRead s pa) : physRead w pa s = overlayRead w pa s := by
  obtain ⟨hrom, hoverlay⟩ := h
  rw [physRead_eq, hrom]
  exact if_pos hoverlay

theorem overlayRead_of_ram {b : Nat}
    (h : bankAt s.slots ((s.params.overlayRamBase + pa).toNat / 0x10000) = .ram b) :
    overlayRead w pa s = physRead w (s.params.overlayRamBase + pa) s := by
  rw [physRead_eq, overlayRead, slotOf, h]
  rfl

theorem overlayRead_of_not_ram
    (h : ∀ b, bankAt s.slots ((s.params.overlayRamBase + pa).toNat / 0x10000) ≠ .ram b) :
    overlayRead w pa s = (.refuse .config, s) := by
  unfold overlayRead
  split
  · rename_i b hb
    exact absurd hb (h b)
  · rfl

end

/-- Settles O26: a target in RAM is read as RAM's own slot reads it, and any other target is refused. -/
theorem overlayRedirectsRomReads : Obligations.OverlayRedirectsRomReads := by
  intro w pa s hoverlaid
  simp only [exec_preadOf, physRead_of_overlaid hoverlaid]
  refine ⟨fun b hram => ?_, fun hnoRam => ?_⟩
  · rw [overlayRead_of_ram hram]
  · rw [overlayRead_of_not_ram hnoRam]
    rfl

/-! ### Empty and BusErr (R230 to R233, R235) -/

section
variable {pa v : Word} {s : State}

theorem physWrite_empty_long (hbank : bankAt s.slots (pa.toNat / 0x10000) = .empty) {b : Nat}
    (howner : emptyOwnerAt s.params (pa.toNat / 0x10000) = some b) :
    physWrite .long pa v s = emptyRedirect b pa v s := by
  rw [physWrite_eq, hbank, bankWrite, emptyWrite, slotOf, howner]

theorem physWrite_empty_long_unowned (hbank : bankAt s.slots (pa.toNat / 0x10000) = .empty)
    (howner : emptyOwnerAt s.params (pa.toNat / 0x10000) = none) :
    physWrite .long pa v s = (.fault (bankFault pa .long true s.diagPc), s) := by
  rw [physWrite_eq, hbank, bankWrite, emptyWrite, slotOf, howner]

section
variable {b : Nat} {r : RamBank} {m : Memory} (hr : s.params.ram[b]? = some r) (hm : s.stores.ram[b]? = some m)
include hr hm

theorem emptyRedirect_past (h : r.size - 1 < (pa - r.base).toNat % r.size + 3) :
    emptyRedirect b pa v s = (.refuse .mirrorEnd, s) := by
  simp only [emptyRedirect, hr, hm]
  exact if_pos h

/-- The redirected Long replaces the owner's store alone. -/
theorem emptyRedirect_within (h : (pa - r.base).toNat % r.size + 3 ≤ r.size - 1) :
    emptyRedirect b pa v s = (.ok (), s.setStores (putStore s.stores (.ram b)
      (writeBytes m ((pa - r.base).toNat % r.size) (splitBytes .long v)))) := by
  simp only [emptyRedirect, hr, hm]
  exact if_neg (Nat.not_lt.mpr h)

end

/-- Byte and word accesses of Empty fault in both directions (R230, R232). -/
theorem exec_empty_of_ne_long (hbank : bankAt s.slots (pa.toNat / 0x10000) = .empty) {w : Width} (hw : w ≠ .long) :
    exec (preadOf w pa) s = .next (faulted s (busErrorRecord s pa w false) (some 0))
      ∧ exec (pwriteOf w pa v) s = .next (faulted s (busErrorRecord s pa w true) none) := by
  cases w with
  | byte | word =>
    exact exec_of_busErrors (by rw [physRead_eq, hbank]; rfl) (fun x => by rw [physWrite_eq, hbank]; rfl)
  | long => exact absurd rfl hw

/-- R231. -/
theorem exec_empty_pread32 (hbank : bankAt s.slots (pa.toNat / 0x10000) = .empty) :
    exec (.pread32 pa) s = .next (answered s (.value .long pa)) := by
  refine (exec_preadOf .long pa s).trans ?_
  rw [physRead_eq, hbank]
  rfl

theorem exec_busErr (hbank : bankAt s.slots (pa.toNat / 0x10000) = .busErr) (w : Width) :
    exec (preadOf w pa) s = .next (faulted s (busErrorRecord s pa w false) (some 0))
      ∧ exec (pwriteOf w pa v) s = .next (faulted s (busErrorRecord s pa w true) none) :=
  exec_of_busErrors (by rw [physRead_eq, hbank]; rfl) (fun x => by rw [physWrite_eq, hbank]; rfl)

end

/-- A Long is passed on whole (R10). -/
theorem toNat_mod_long (v : Word) : v.toNat = v.toNat % 2 ^ (8 * widthBytes .long) := (Nat.mod_eq_of_lt v.isLt).symm

/-- Settles O27: BusErr and the narrow widths of Empty fault; a Long read of Empty answers its address, and a Long write
goes to the owner's store, if there is one. -/
theorem emptyAndBusErrBanks : Obligations.EmptyAndBusErrBanks := by
  intro w pa v s
  refine ⟨fun hbank => exec_busErr hbank w, fun hbank => ⟨exec_empty_of_ne_long hbank, exec_empty_pread32 hbank,
    fun howner => exec_pwriteOf_of_busError (toNat_mod_long v) (physWrite_empty_long_unowned hbank howner), ?_⟩⟩
  rintro b r m off howner hr hm hwf rfl
  have hexec : exec (.pwrite32 pa v) s = deliver carriesNone (mapAns (fun _ => .unit) (emptyRedirect b pa v s)) := by
    rw [← physWrite_empty_long hbank howner]
    rfl
  rw [hexec]
  refine ⟨fun hpast => ?_, fun hwithin => ⟨_, writeBytes_holdsAt hwf _ (toNat_mod_long v), ?_⟩⟩
  · rw [emptyRedirect_past hr hm hpast]; rfl
  · rw [emptyRedirect_within hr hm hwithin]; rfl

/-! ### I/O (R237, R239) -/

/-- R10: the low bits that an access of a width keeps, as a number. -/
theorem truncateTo_toNat (w : Width) (v : Word) : (truncateTo w v).toNat = v.toNat % 2 ^ (8 * widthBytes w) := by
  cases w with
  | byte => exact and_0xFF_toNat v
  | word => exact and_0xFFFF_toNat v
  | long => exact toNat_mod_long v

section
variable {w : Width} {pa v : Word} {s : State} (hbank : bankAt s.slots (pa.toNat / 0x10000) = .io)
include hbank

/-- PREAD of the I/O bank ends as the collaborator's answer says, in the state with the access recorded (R237). -/
theorem exec_preadOf_io : exec (preadOf w pa) s = .next
    (if (ioReadAnswer w pa s).2 then faulted (ioReadState w pa s) (busErrorRecord s pa w false) (some 0)
    else answered (ioReadState w pa s) (.value w (ioReadAnswer w pa s).1)) := by
  have hread : physRead w pa s = ioRead w pa s := by rw [physRead_eq, hbank]; rfl
  cases hbe : (ioReadAnswer w pa s).2 with
  | true => exact exec_preadOf_of_busError (by rw [hread, ioRead, hbe]; rfl)
  | false =>
    rw [exec_preadOf, hread, ioRead, hbe]
    rfl

theorem exec_pwriteOf_io {x : Word} (hx : x.toNat = v.toNat % 2 ^ (8 * widthBytes w)) :
    exec (pwriteOf w pa v) s = .next
      (if ioWriteAnswer w pa x s then faulted (ioWriteState w pa x s) (busErrorRecord s pa w true) none
      else answered (ioWriteState w pa x s) .unit) := by
  have hwrite : physWrite w pa x s = ioWrite w pa x s := by rw [physWrite_eq, hbank]; rfl
  cases hbe : ioWriteAnswer w pa x s with
  | true => exact exec_pwriteOf_of_busError hx (by rw [hwrite, ioWrite, hbe]; rfl)
  | false =>
    rw [exec_pwriteOf hx, physStore, hwrite, ioWrite, hbe]
    rfl

end

/-- Settles O28: one question, one record and one draw, whatever the collaborator answers. -/
theorem ioBankAsksTheCollaborator : Obligations.IoBankAsksTheCollaborator := by
  intro w pa v s hbank
  constructor
  · rintro x be hx rfl
    obtain rfl : (ioReadAnswer w pa s).1 = x := BitVec.eq_of_toNat_eq ((truncateTo_toNat w _).trans hx.symm)
    exact exec_preadOf_io hbank
  · rintro x be hx rfl
    exact exec_pwriteOf_io hbank hx

end Sys2Proof.Machine
end

section
/-! PROOFS. The decoded TC (R260 to R266, R282): fields of raw registers as numbers, each field of `decodeTc` from them,
and the masks as runs of bits that follow each other where the field sum is 32. -/

namespace Sys2Proof.Machine

/-! ### Fields of raw registers -/

theorem extractLsb'_toNat_eq_rawField {w : Nat} (v : BitVec w) (lo n : Nat) :
    (v.extractLsb' lo n).toNat = rawField v.toNat lo n := by
  rw [BitVec.extractLsb'_toNat, Nat.shiftRight_eq_div_pow, rawField]

theorem bitField_eq_rawField (v : Word) (lo n : Nat) : bitField v lo n = rawField v.toNat lo n :=
  extractLsb'_toNat_eq_rawField v lo n

theorem getLsbD_iff_rawField {w : Nat} (v : BitVec w) (k : Nat) :
    v.getLsbD k = true ↔ rawField v.toNat k 1 = 1 := by
  rw [BitVec.getLsbD, Nat.testBit_eq_decide_div_mod_eq, decide_eq_true_iff, rawField, pow_one]

theorem rawField_lt (v lo n : Nat) : rawField v lo n < 2 ^ n := Nat.mod_lt _ (Nat.two_pow_pos n)

theorem tcPs_eq_rawField (raw : Word) : tcPs raw = rawField raw.toNat 20 4 := bitField_eq_rawField raw 20 4

theorem tcIs_eq_rawField (raw : Word) : tcIs raw = rawField raw.toNat 16 4 := bitField_eq_rawField raw 16 4

theorem levelGet_tcWidths (raw : Word) (l : TableLevel) : levelGet (tcWidths raw) l = rawWidth raw l := by
  cases l <;> exact bitField_eq_rawField raw _ 4

theorem tcWidths_eq (raw : Word) :
    tcWidths raw = ⟨rawWidth raw .a, rawWidth raw .b, rawWidth raw .c, rawWidth raw .d⟩ := by
  simp only [← levelGet_tcWidths, levelGet]

/-! ### The field sum (R265, R266) -/

theorem indexBits_eq_bitsDownTo (raw : Word) : indexBits (tcIs raw) (tcWidths raw) = bitsDownTo raw .d := by
  rw [tcIs_eq_rawField, tcWidths_eq]; rfl

theorem tcSumOf_eq_rawSum (raw : Word) : tcSumOf raw = rawSum raw := by
  rw [tcSumOf, tcSum, indexBits_eq_bitsDownTo, tcPs_eq_rawField, rawSum]

theorem decodeTc_sumOk_iff (raw : Word) : (decodeTc raw).sumOk = true ↔ rawSum raw = 32 := by
  rw [← tcSumOf_eq_rawSum]
  exact beq_iff_eq

theorem decodeTc_tcUnmodelled_iff (raw : Word) :
    (decodeTc raw).tcUnmodelled = true ↔ rawField raw.toNat 20 4 < 8 ∨ 32 < bitsDownTo raw .d := by
  have hflag : (decodeTc raw).tcUnmodelled = tcUnmodelledFlag (tcPs raw) (tcIs raw) (tcWidths raw) := rfl
  rw [hflag, tcUnmodelledFlag, tcPs_eq_rawField, indexBits_eq_bitsDownTo, Bool.or_eq_true, decide_eq_true_iff,
    decide_eq_true_iff]

/-! ### The present levels and the last of them (R264, R265) -/

section
variable (w : PerLevel Nat)

theorem levelGet_eq_zero_iff : (∀ l, levelGet w l = 0) ↔ w.a = 0 ∧ w.b = 0 ∧ w.c = 0 ∧ w.d = 0 :=
  ⟨fun h => ⟨h .a, h .b, h .c, h .d⟩, fun ⟨ha, hb, hc, hd⟩ l => match l with
    | .a => ha
    | .b => hb
    | .c => hc
    | .d => hd⟩

theorem levelIndex_le_lastTableLevel (l : TableLevel) (h : levelGet w l ≠ 0) :
    levelIndex l ≤ levelIndex (lastTableLevel w) := by
  cases l with
  | a => exact Nat.zero_le _
  | b => rw [lastTableLevel, if_pos (c := w.b ≠ 0) h]; split_ifs <;> decide
  | c => rw [lastTableLevel, if_pos (c := w.c ≠ 0) h]; split <;> decide
  | d => rw [lastTableLevel, if_pos (c := w.d ≠ 0) h]

theorem lastTableLevel_present :
    levelGet w (lastTableLevel w) ≠ 0 ∨ (lastTableLevel w = .a ∧ ∀ l, levelGet w l = 0) := by
  unfold lastTableLevel
  split_ifs with hd hc hb
  · exact .inl hd
  · exact .inl hc
  · exact .inl hb
  · rw [levelGet_eq_zero_iff]
    simp only [not_not] at hd hc hb
    by_cases ha : w.a = 0
    · exact .inr ⟨rfl, ha, hb, hc, hd⟩
    · exact .inl ha

theorem presentLevels_iff (l : TableLevel) :
    levelGet (presentLevels w) l = true ↔ levelGet w l ≠ 0 ∨ (l = .a ∧ ∀ k, levelGet w k = 0) := by
  rw [levelGet_eq_zero_iff]
  cases l with
  | a => by_cases ha : w.a = 0 <;> simp [levelGet, presentLevels, ha, and_assoc]
  | b | c | d => simp [levelGet, presentLevels]

end

/-! ### Runs of bits -/

theorem lowMask_toNat {n : Nat} (hn : n ≤ 32) : (lowMask n).toNat = 2 ^ n - 1 := by
  have hpow : 2 ^ n ≤ 2 ^ 32 := Nat.pow_le_pow_right (by decide) hn
  have hpos : 0 < 2 ^ n := Nat.two_pow_pos n
  rw [lowMask, BitVec.toNat_ofNat, Nat.mod_eq_of_lt (by omega)]

/-- The bits of a mask are those from `lo` up to, but not including, `hi`. -/
def IsRun (m : Word) (lo hi : Nat) : Prop := ∀ k < 32, m.getLsbD k = (decide (lo ≤ k) && decide (k < hi))

theorem isRun_iff {m : Word} {lo hi : Nat} :
    IsRun m lo hi ↔ ∀ k < 32, (m.getLsbD k = true ↔ lo ≤ k ∧ k < hi) :=
  forall₂_congr fun k _ => by rw [Bool.eq_iff_iff, Bool.and_eq_true, decide_eq_true_eq, decide_eq_true_eq]

theorem lowMask_isRun (n : Nat) : IsRun (lowMask n) 0 n := fun k hk => by
  rw [lowMask_getLsbD n hk, decide_eq_true (Nat.zero_le k), Bool.true_and]

theorem lowMask_shiftLeft_isRun (n s : Nat) : IsRun (lowMask n <<< s) s (s + n) := isRun_iff.mpr fun k hk => by
  rw [BitVec.getLsbD_shiftLeft, lowMask_getLsbD n (by omega)]
  simp only [Bool.and_eq_true, Bool.not_eq_true', decide_eq_true_eq, decide_eq_false_iff_not]
  omega

/-- The shift is one of numbers, whose value is below 2^32. -/
theorem ones_shiftRight_isRun (n : Nat) : IsRun ((0xFFFFFFFF >>> n : Nat) : Word) 0 (32 - n) :=
  isRun_iff.mpr fun k hk => by
    have hones : Nat.testBit 0xFFFFFFFF (n + k) = decide (n + k < 32) := Nat.testBit_two_pow_sub_one 32 (n + k)
    rw [BitVec.natCast_eq_ofNat, BitVec.getLsbD_ofNat, Nat.testBit_shiftRight, hones, Bool.and_eq_true,
      decide_eq_true_eq, decide_eq_true_eq]
    omega

section
variable {m m' : Word} {a b c d : Nat}

theorem IsRun.eq (h : IsRun m a b) (h' : IsRun m' a b) : m = m' :=
  BitVec.eq_of_getLsbD_eq fun k hk => (h k hk).trans (h' k hk).symm

theorem IsRun.and_eq_zero (h : IsRun m a b) (h' : IsRun m' c d) (hbc : b ≤ c) : m &&& m' = 0 := by
  refine BitVec.eq_of_getLsbD_eq fun k hk => (Bool.eq_false_iff.mpr fun hboth => ?_).trans BitVec.getLsbD_zero.symm
  rw [BitVec.getLsbD_and, Bool.and_eq_true, isRun_iff.mp h k hk, isRun_iff.mp h' k hk] at hboth
  omega

/-- Runs of which one begins where the other ends make one run. -/
theorem IsRun.or (h : IsRun m a b) (h' : IsRun m' b c) (hab : a ≤ b) (hbc : b ≤ c) : IsRun (m ||| m') a c :=
  isRun_iff.mpr fun k hk => by
    rw [BitVec.getLsbD_or, Bool.or_eq_true, isRun_iff.mp h k hk, isRun_iff.mp h' k hk]
    omega

end

/-! ### The table of a decoded TC (R263) -/

theorem decodeTc_table (raw : Word) (l : TableLevel) :
    levelGet (decodeTc raw).table l = tableField (bitsDownTo raw l) (rawWidth raw l) := by
  have htable : (decodeTc raw).table = tableFields (tcIs raw) (tcWidths raw) := rfl
  rw [htable, tcIs_eq_rawField, tcWidths_eq]
  cases l <;> rfl

theorem tableField_of_lt {used : Nat} (h : 32 < used) (w : Nat) : tableField used w = ⟨0, 0⟩ := if_pos h

theorem tableField_of_le {used : Nat} (h : used ≤ 32) (w : Nat) :
    tableField used w = ⟨lowMask w <<< (32 - used), 32 - used⟩ := if_neg (Nat.not_lt.mpr h)

/-- A mask that fits below bit 32 loses no bit to its shift. -/
theorem lowMask_shiftLeft_toNat {n s : Nat} (h : n + s ≤ 32) : (lowMask n <<< s).toNat = (2 ^ n - 1) * 2 ^ s := by
  have hn : n ≤ 32 := by omega
  have hlt : (2 ^ n - 1) * 2 ^ s < 2 ^ 32 := calc
    (2 ^ n - 1) * 2 ^ s < 2 ^ n * 2 ^ s :=
      Nat.mul_lt_mul_of_pos_right (Nat.sub_lt (Nat.two_pow_pos n) Nat.one_pos) (Nat.two_pow_pos s)
    _ = 2 ^ (n + s) := (Nat.pow_add 2 n s).symm
    _ ≤ 2 ^ 32 := Nat.pow_le_pow_right (by decide) h
  rw [BitVec.toNat_shiftLeft, lowMask_toNat hn, Nat.shiftLeft_eq, Nat.mod_eq_of_lt hlt]

theorem rawWidth_le_bitsDownTo (raw : Word) (l : TableLevel) : rawWidth raw l ≤ bitsDownTo raw l := by
  cases l <;> exact Nat.le_add_left ..

/-- Settles O8: each field from the raw bits; a level's mask fits below bit 32 because its width is among the bits from
the top down to it. -/
theorem tcDecodeFields : Obligations.TcDecodeFields := by
  intro raw
  have hps : rawField raw.toNat 20 4 ≤ 32 := by have := rawField_lt raw.toNat 20 4; omega
  have hlast : (decodeTc raw).lastTableIndex = lastTableLevel (tcWidths raw) := rfl
  have hpresent : (decodeTc raw).present = presentLevels (tcWidths raw) := rfl
  have hmask : (decodeTc raw).pageMask.toNat = 2 ^ rawField raw.toNat 20 4 - 1 :=
    (congrArg (fun n => (lowMask n).toNat) (tcPs_eq_rawField raw)).trans (lowMask_toNat hps)
  refine ⟨getLsbD_iff_rawField raw 31, getLsbD_iff_rawField raw 25, getLsbD_iff_rawField raw 24, tcPs_eq_rawField raw,
    tcIs_eq_rawField raw, levelGet_tcWidths raw, hmask, fun l => ?_, ?_, ?_, ?_, decodeTc_sumOk_iff raw,
    decodeTc_tcUnmodelled_iff raw⟩
  · rw [decodeTc_table]
    split
    · next hpast => exact tableField_of_lt hpast _
    · next hfits =>
      have hle := Nat.not_lt.mp hfits
      have := rawWidth_le_bitsDownTo raw l
      rw [tableField_of_le hle]
      exact ⟨rfl, lowMask_shiftLeft_toNat (by omega)⟩
  all_goals simp only [hlast, hpresent, ← levelGet_tcWidths]
  · exact levelIndex_le_lastTableLevel _
  · exact lastTableLevel_present _
  · exact presentLevels_iff _

/-! ### The partition of the address (R282) -/

theorem levelIndex_injective : Function.Injective levelIndex := fun l k h => by
  cases l <;> cases k <;> trivial

/-- A level's bits come after all of those down to a level above it. -/
theorem bitsDownTo_add_rawWidth_le (raw : Word) {l k : TableLevel} (h : levelIndex l < levelIndex k) :
    bitsDownTo raw l + rawWidth raw k ≤ bitsDownTo raw k := by
  cases k with
  | a => exact absurd h (Nat.not_lt_zero _)
  | b | c | d => cases l <;> simp only [levelIndex, bitsDownTo] at h ⊢ <;> omega

theorem bitsDownTo_le_d (raw : Word) (l : TableLevel) : bitsDownTo raw l ≤ bitsDownTo raw .d := by
  cases l <;> simp only [bitsDownTo] <;> omega

section
variable {raw : Word} (hsum : rawSum raw = 32)
include hsum

theorem bitsDownTo_le_of_sum (l : TableLevel) : bitsDownTo raw l ≤ 32 := by
  have := bitsDownTo_le_d raw l
  rw [rawSum] at hsum
  omega

theorem decodeTc_table_of_sum (l : TableLevel) : levelGet (decodeTc raw).table l
    = ⟨lowMask (rawWidth raw l) <<< (32 - bitsDownTo raw l), 32 - bitsDownTo raw l⟩ := by
  rw [decodeTc_table, tableField_of_le (bitsDownTo_le_of_sum hsum l)]

theorem decodeTc_shift (l : TableLevel) : (levelGet (decodeTc raw).table l).shift = 32 - bitsDownTo raw l := by
  rw [decodeTc_table_of_sum hsum]

theorem decodeTc_mask_isRun (l : TableLevel) : IsRun (levelGet (decodeTc raw).table l).mask
    (levelGet (decodeTc raw).table l).shift ((levelGet (decodeTc raw).table l).shift + rawWidth raw l) := by
  rw [decodeTc_table_of_sum hsum]
  exact lowMask_shiftLeft_isRun _ _

/-- Each level begins where the one above it ends, from bit `31 - init_shift` down to bit `ps`. -/
theorem decodeTc_levels_contiguous :
    (decodeTc raw).table.a.shift + rawWidth raw .a = 32 - (decodeTc raw).initShift
    ∧ (decodeTc raw).table.b.shift + rawWidth raw .b = (decodeTc raw).table.a.shift
    ∧ (decodeTc raw).table.c.shift + rawWidth raw .c = (decodeTc raw).table.b.shift
    ∧ (decodeTc raw).table.d.shift + rawWidth raw .d = (decodeTc raw).table.c.shift
    ∧ (decodeTc raw).table.d.shift = (decodeTc raw).ps := by
  have ha : (decodeTc raw).table.a.shift = 32 - bitsDownTo raw .a := decodeTc_shift hsum .a
  have hb : (decodeTc raw).table.b.shift = 32 - bitsDownTo raw .b := decodeTc_shift hsum .b
  have hc : (decodeTc raw).table.c.shift = 32 - bitsDownTo raw .c := decodeTc_shift hsum .c
  have hd : (decodeTc raw).table.d.shift = 32 - bitsDownTo raw .d := decodeTc_shift hsum .d
  have hps : (decodeTc raw).ps = rawField raw.toNat 20 4 := tcPs_eq_rawField raw
  have his : (decodeTc raw).initShift = rawField raw.toNat 16 4 := tcIs_eq_rawField raw
  simp only [rawSum, bitsDownTo] at hsum ha hb hc hd
  omega

theorem decodeTc_masks_disjoint_of_lt {l k : TableLevel} (h : levelIndex l < levelIndex k) :
    (levelGet (decodeTc raw).table k).mask &&& (levelGet (decodeTc raw).table l).mask = 0 := by
  refine (decodeTc_mask_isRun hsum k).and_eq_zero (decodeTc_mask_isRun hsum l) ?_
  have := bitsDownTo_add_rawWidth_le raw h
  have := bitsDownTo_le_of_sum hsum k
  rw [decodeTc_shift hsum, decodeTc_shift hsum]
  omega

theorem decodeTc_masks_disjoint {l k : TableLevel} (h : l ≠ k) :
    (levelGet (decodeTc raw).table l).mask &&& (levelGet (decodeTc raw).table k).mask = 0 := by
  rcases lt_or_gt_of_ne (levelIndex_injective.ne h) with hlt | hgt
  · rw [BitVec.and_comm]
    exact decodeTc_masks_disjoint_of_lt hsum hlt
  · exact decodeTc_masks_disjoint_of_lt hsum hgt

theorem decodeTc_pageMask_disjoint (l : TableLevel) :
    (decodeTc raw).pageMask &&& (levelGet (decodeTc raw).table l).mask = 0 := by
  refine (lowMask_isRun _).and_eq_zero (decodeTc_mask_isRun hsum l) ?_
  have := bitsDownTo_le_d raw l
  rw [decodeTc_shift hsum, tcPs_eq_rawField]
  rw [rawSum] at hsum
  omega

/-- The runs of the page and of levels D, C, B and A, each from where the one before it ends. -/
theorem decodeTc_masks_cover : (decodeTc raw).pageMask ||| (decodeTc raw).table.a.mask ||| (decodeTc raw).table.b.mask
    ||| (decodeTc raw).table.c.mask ||| (decodeTc raw).table.d.mask = 0xFFFFFFFF >>> (decodeTc raw).initShift := by
  obtain ⟨htop, hab, hbc, hcd, hbottom⟩ := decodeTc_levels_contiguous hsum
  have hpage : IsRun (decodeTc raw).pageMask 0 (decodeTc raw).table.d.shift := hbottom ▸ lowMask_isRun _
  have hd : IsRun (decodeTc raw).table.d.mask _ (decodeTc raw).table.c.shift := hcd ▸ decodeTc_mask_isRun hsum .d
  have hc : IsRun (decodeTc raw).table.c.mask _ (decodeTc raw).table.b.shift := hbc ▸ decodeTc_mask_isRun hsum .c
  have hb : IsRun (decodeTc raw).table.b.mask _ (decodeTc raw).table.a.shift := hab ▸ decodeTc_mask_isRun hsum .b
  have ha : IsRun (decodeTc raw).table.a.mask _ (32 - (decodeTc raw).initShift) := htop ▸ decodeTc_mask_isRun hsum .a
  have hall := (((hpage.or hd (by omega) (by omega)).or hc (by omega) (by omega)).or hb (by omega) (by omega)).or ha
    (by omega) (by omega)
  refine Eq.trans ?_ (hall.eq (ones_shiftRight_isRun _))
  ac_rfl

end

/-- Settles O9: under sum 32 no shift goes below zero, so that the masks are runs of bits, each beginning where the next
lower one ends. -/
theorem tcMasksPartitionTheAddress : Obligations.TcMasksPartitionTheAddress := by
  intro raw hsum
  have hpage : ∀ k < 32, (decodeTc raw).pageMask.getLsbD k = decide (k < (decodeTc raw).ps) :=
    fun k hk => lowMask_getLsbD _ hk
  obtain ⟨htop, hab, hbc, hcd, hbottom⟩ := decodeTc_levels_contiguous hsum
  exact ⟨hpage, decodeTc_mask_isRun hsum, htop, hab, hbc, hcd, hbottom, by omega, decodeTc_pageMask_disjoint hsum,
    fun l k => decodeTc_masks_disjoint hsum, decodeTc_masks_cover hsum⟩

end Sys2Proof.Machine
end

section
/-! PROOFS. The register commands (R267, R268, R270 to R281): the fields of decoded root pointers and windows as
numbers, and each write and read as a whole next state. -/

namespace Sys2Proof.Machine

/-! ### Root pointers and windows (R267, R268) -/

/-- A mask of the high bits clears the low ones. -/
theorem and_allOnes_shiftLeft_toNat (v : Word) (n : Nat) :
    (v &&& BitVec.allOnes 32 <<< n).toNat = v.toNat / 2 ^ n * 2 ^ n := by
  have hlt : v.toNat / 2 ^ n * 2 ^ n < 2 ^ 32 := Nat.lt_of_le_of_lt (Nat.div_mul_le_self ..) v.isLt
  rw [← BitVec.shiftLeft_ushiftRight, BitVec.toNat_shiftLeft, BitVec.toNat_ushiftRight, Nat.shiftRight_eq_div_pow,
    Nat.shiftLeft_eq, Nat.mod_eq_of_lt hlt]

theorem and_0xFFFFFFF0_toNat (v : Word) : (v &&& 0xFFFFFFF0).toNat = v.toNat / 2 ^ 4 * 2 ^ 4 :=
  and_allOnes_shiftLeft_toNat v 4

theorem and_0xFF000000_toNat (v : Word) : (v &&& 0xFF000000).toNat = v.toNat / 2 ^ 24 * 2 ^ 24 :=
  and_allOnes_shiftLeft_toNat v 24

theorem decodeRp_tableAddress_toNat (v : Quad) :
    (decodeRp v).tableAddress.toNat = rawField v.toNat 4 28 * 16 := by
  refine (and_0xFFFFFFF0_toNat (v.setWidth 32)).trans ?_
  rw [BitVec.toNat_setWidth, rawField]
  omega

theorem decodeTt_addrBase_toNat (v : Word) : (decodeTt v).addrBase.toNat = rawField v.toNat 24 8 * 2 ^ 24 := by
  refine (and_0xFF000000_toNat v).trans ?_
  rw [rawField]
  omega

/-- The mask byte, bits 23:16, moves up to the compared byte of an address and is inverted there. -/
theorem decodeTt_addrMask_toNat (v : Word) :
    (decodeTt v).addrMask.toNat = (255 - rawField v.toNat 16 8) * 2 ^ 24 := by
  refine (and_0xFF000000_toNat (~~~(v <<< 8))).trans ?_
  rw [BitVec.toNat_not, BitVec.toNat_shiftLeft, Nat.shiftLeft_eq, rawField]
  omega

theorem decodeTt_fcMask_toNat (v : Word) : (decodeTt v).fcMask.toNat = 7 - rawField v.toNat 0 3 := by
  rw [← extractLsb'_toNat_eq_rawField]
  exact BitVec.toNat_not

/-! ### Operands of two words -/

theorem quadHi_append (hi lo : Word) : quadHi (hi ++ lo) = hi := BitVec.extractLsb'_append_eq_left

theorem quadLo_append (hi lo : Word) : quadLo (hi ++ lo) = lo := BitVec.setWidth_append_eq_right

/-- The upper word of a root pointer comes first (R271, R272). -/
theorem decode_rootPointerWrites (hi lo : Word) : decode [0x11, hi, lo] = .instr (.wrSrp (hi ++ lo))
    ∧ decode [0x12, hi, lo] = .instr (.wrCrp (hi ++ lo)) := by
  have hsrp := decodeReadsBackEncode (.wrSrp (hi ++ lo)) rfl
  have hcrp := decodeReadsBackEncode (.wrCrp (hi ++ lo)) rfl
  simp only [encode, quadHi_append, quadLo_append] at hsrp hcrp
  exact ⟨hsrp, hcrp⟩

/-! ### Writes -/

/-- A TC write logs the value, and then the sum where it is not 32 (R270). -/
theorem logTcWrite_eq (s : State) (v : Word) : logTcWrite s v = { s with
    diagLog := s.diagLog ++ .decodedRegister .tc (v.setWidth 64) s.diagPc ::
      (if rawSum v = 32 then [] else [.configWarning v (rawSum v) s.diagPc]) } := by
  by_cases hsum : rawSum v = 32
  · rw [logTcWrite, if_pos ((decodeTc_sumOk_iff v).mpr hsum), if_pos hsum]
    rfl
  · rw [logTcWrite, if_neg (mt (decodeTc_sumOk_iff v).mp hsum), if_neg hsum, tcSumOf_eq_rawSum]
    simp only [logWrite, State.log, List.append_assoc, List.singleton_append]

/-- Settles O7: the flag that decides on the warning is the raw field sum's. -/
theorem wrTcStoresDecodesAndLogs : Obligations.WrTcStoresDecodesAndLogs := by
  intro v s
  refine ⟨decodeReadsBackEncode (.wrTc v) rfl, ?_⟩
  rw [exec_eq_deliver, operation, logTcWrite_eq]
  rfl

/-- Settles O10: the two operand words are the halves of the value, and each write is its operation, ended with Ok. -/
theorem rootPointerWrites : Obligations.RootPointerWrites := by
  refine ⟨decode_rootPointerWrites, fun v s => ⟨?_, ?_⟩, fun v => ?_⟩
  · exact exec_eq_deliver (.wrSrp v) s
  · exact exec_eq_deliver (.wrCrp v) s
  · exact ⟨getLsbD_iff_rawField v 63, extractLsb'_toNat_eq_rawField v 48 15, extractLsb'_toNat_eq_rawField v 32 2,
      decodeRp_tableAddress_toNat v⟩

/-- Settles O11: each write is its operation, ended with Ok; the masks of a window are its mask fields inverted. -/
theorem windowAndStatusWrites : Obligations.WindowAndStatusWrites := by
  refine ⟨fun v s => ⟨decodeReadsBackEncode (.wrTt0 v) rfl, decodeReadsBackEncode (.wrTt1 v) rfl, ?_, ?_⟩,
    fun v s => ⟨decodeReadsBackEncode (.wrMmusr v) rfl, ?_⟩, fun v => ?_⟩
  · exact exec_eq_deliver (.wrTt0 v) s
  · exact exec_eq_deliver (.wrTt1 v) s
  · exact exec_eq_deliver (.wrMmusr v) s
  · exact ⟨getLsbD_iff_rawField v 15, getLsbD_iff_rawField v 10, getLsbD_iff_rawField v 9, getLsbD_iff_rawField v 8,
      decodeTt_addrBase_toNat v, decodeTt_addrMask_toNat v, extractLsb'_toNat_eq_rawField v 4 3,
      decodeTt_fcMask_toNat v⟩

/-! ### Reads -/

/-- Settles O12: a read's operation answers the raw value in the state it was given. -/
theorem registerReadsAnswerRaw : Obligations.RegisterReadsAnswerRaw := by
  refine ⟨decodeReadsBackEncode .rdTc rfl, decodeReadsBackEncode .rdSrp rfl, decodeReadsBackEncode .rdCrp rfl,
    decodeReadsBackEncode .rdTt0 rfl, decodeReadsBackEncode .rdTt1 rfl, decodeReadsBackEncode .rdMmusr rfl,
    fun s => ⟨?_, ?_, ?_, ?_, ?_, ?_⟩⟩
  · exact exec_eq_deliver .rdTc s
  · exact exec_eq_deliver .rdSrp s
  · exact exec_eq_deliver .rdCrp s
  · exact exec_eq_deliver .rdTt0 s
  · exact exec_eq_deliver .rdTt1 s
  · exact exec_eq_deliver .rdMmusr s

end Sys2Proof.Machine
end

section
/-! PROOFS. One descriptor fetch (R305, R312, R313, R454): what each check answers, and the descriptor that passes them
all, by the tables of R132 and R133. -/

namespace Sys2Proof.Machine

/-! ### The limit (R312) -/

theorem limitViolated_iff (idx : Word) (lim : Limit) : limitViolated idx lim = true ↔
    lim.has = true ∧ (if lim.lower then idx.toNat < lim.limit else lim.limit < idx.toNat) := by
  rw [limitViolated, Bool.and_eq_true]
  cases lim.lower <;> simp

theorem not_limitViolated_noLimit (idx : Word) : ¬ limitViolated idx noLimit = true := by
  simp [limitViolated, noLimit]

/-- A limit that is there is violated by the indices that are not within it (R312). -/
theorem limitViolated_iff_not_within (idx : Word) {lim : Limit} (hhas : lim.has = true) :
    limitViolated idx lim = true ↔ ¬ WithinLimit lim.lower lim.limit idx := by
  rw [limitViolated_iff, WithinLimit, and_iff_right hhas]
  cases lim.lower <;> simp

section
variable {la : Word} {acc : Access} {level : Level} {idx a : Word} {lim : Limit} {s : State}

theorem limitCheck_of_not_violated (h : ¬ limitViolated idx lim = true) :
    limitCheck la acc level idx lim a s = (.ok (), s) := if_neg h

theorem limitCheck_off (hoff : s.params.limitCheck = .off) : limitCheck la acc level idx lim a s = (.ok (), s) := by
  rw [limitCheck, hoff]
  exact ite_self _

theorem limitCheck_log (h : limitViolated idx lim = true) (hlog : s.params.limitCheck = .log) :
    limitCheck la acc level idx lim a s
      = (.ok (), s.log (.limitViolationLogged level idx lim.limit lim.lower s.diagPc)) := by
  rw [limitCheck, if_pos h, hlog]

theorem limitCheck_fault (h : limitViolated idx lim = true) (hfault : s.params.limitCheck = .fault) :
    limitCheck la acc level idx lim a s = (.fault (walkRecord s .mmuLimitViolation la acc level (some a)), s) := by
  rw [limitCheck, if_pos h, hfault]
  rfl

end

/-! ### The fetches (R305) -/

section
variable {la : Word} {acc : Access} {level : Level} {a d0 d1 : Word} {pos : DescPos} {s t u : State} {f : FaultRecord}

theorem fetchLong_ok (h : physRead .long a s = (.ok d0, t)) : fetchLong la acc level a s = (.ok d0, t) := by
  rw [fetchLong, h, mapFault_ok]

/-- The bus error of a descriptor fetch has the walk's record, with the address of the long word (log entry 12). -/
theorem fetchLong_fault (h : physRead .long a s = (.fault f, t)) : fetchLong la acc level a s
    = (.fault { walkRecord s .busError la acc level (some a) with pa := some a }, t) := by
  rw [fetchLong, h, mapFault_fault]
  rfl

theorem fetchDesc_fault (size : DescSize) (h : physRead .long a s = (.fault f, t)) :
    fetchDesc la acc level a size pos s
      = (.fault { walkRecord s .busError la acc level (some a) with pa := some a }, t) := by
  rw [fetchDesc, fetchLong_fault h, andThen_fault]

theorem fetchDesc_short (h : physRead .long a s = (.ok d0, t)) :
    fetchDesc la acc level a .four pos s = (.ok (decodeShort d0 pos), t) := by
  rw [fetchDesc, fetchLong_ok h, andThen_ok]

theorem fetchDesc_long (h : physRead .long a s = (.ok d0, t)) (h' : physRead .long (a + 4) t = (.ok d1, u)) :
    fetchDesc la acc level a .eight pos s = (.ok (decodeLong d0 d1 pos), u) := by
  simp only [fetchDesc, fetchLong_ok h, fetchLong_ok h', andThen_ok]

theorem fetchDesc_long_fault (h : physRead .long a s = (.ok d0, t)) (h' : physRead .long (a + 4) t = (.fault f, u)) :
    fetchDesc la acc level a .eight pos s
      = (.fault { walkRecord t .busError la acc level (some (a + 4)) with pa := some (a + 4) }, u) := by
  simp only [fetchDesc, fetchLong_ok h, fetchLong_fault h', andThen_ok, andThen_fault]

end

/-! ### The type and the S bit (R305, R313) -/

theorem shortDescriptor_ne_invalid {pos : DescPos} (hpos : pos ≠ .indirectTarget) (d : Word) :
    shortDescriptor d pos ≠ .invalid := by
  unfold shortDescriptor
  split
  · exact nofun
  · cases pos with
    | nonLast | last => exact nofun
    | indirectTarget => exact absurd rfl hpos

theorem longDescriptor_ne_invalid {pos : DescPos} (hpos : pos ≠ .indirectTarget) (d0 d1 : Word) :
    longDescriptor d0 d1 pos ≠ .invalid := by
  unfold longDescriptor
  split
  · exact nofun
  · cases pos with
    | nonLast | last => exact nofun
    | indirectTarget => exact absurd rfl hpos

/-- A short descriptor has no S bit (R132). -/
theorem descSupervisor_shortDescriptor (d : Word) (pos : DescPos) : descSupervisor (shortDescriptor d pos) = false := by
  unfold shortDescriptor
  split
  · rfl
  · cases pos <;> rfl

/-- The S bit of a long descriptor counts in a page or a table (R313). -/
theorem descSupervisor_longDescriptor (d0 d1 : Word) (pos : DescPos) :
    descSupervisor (longDescriptor d0 d1 pos) = true ↔ d0.getLsbD 8 = true ∧ (d0 &&& 3 = 1 ∨ pos = .nonLast) := by
  unfold longDescriptor
  split
  · next hpage => exact ⟨fun h => ⟨h, .inl hpage⟩, And.left⟩
  · next hpage =>
    cases pos with
    | nonLast => exact ⟨fun h => ⟨h, .inr rfl⟩, And.left⟩
    | last | indirectTarget => simp [descSupervisor, show ¬ d0 &&& 3#32 = 1#32 from hpage]

theorem supervisorCheck_ok {la : Word} {acc : Access} {level : Level} {d : Desc} {a : Word} {s : State}
    (h : ¬ (s.params.supervisorCheck = true ∧ descSupervisor d = true ∧ acc.supervisor = false)) :
    supervisorCheck la acc level d a s = (.ok (), s) := if_neg h

theorem supervisorCheck_fault {la : Word} {acc : Access} {level : Level} {d : Desc} {a : Word} {s : State}
    (h : s.params.supervisorCheck = true ∧ descSupervisor d = true ∧ acc.supervisor = false) :
    supervisorCheck la acc level d a s
      = (.fault (walkRecord s .mmuSupervisorViolation la acc level (some a)), s) := if_pos h

/-! ### A descriptor of a table (R305) -/

theorem descAddress_eq (tb : Word) (size : DescSize) (idx : Word) :
    descAddress tb size idx = tb + idx * (if size = .four then 4 else 8) := by
  cases size <;> rfl

section
variable {la : Word} {acc : Access} {at' : WalkAt} {idx a d0 d1 : Word} {pos : DescPos} {level : Level}
  {s s1 t u : State} {f : FaultRecord}

theorem fetchCheck_limitFault (ha : a = descAddress at'.tb at'.size idx) (h : limitViolated idx at'.limit = true)
    (hfault : s.params.limitCheck = .fault) : fetchCheck la acc at' idx pos level s
      = (.fault (walkRecord s .mmuLimitViolation la acc level (some a)), s) := by
  rw [fetchCheck, limitCheck_fault h hfault, andThen_fault, ha]

/-- Where the limit check passes, the rest is what it is for a table without a limit. -/
theorem fetchCheck_of_limitCheck
    (h : limitCheck la acc level idx at'.limit (descAddress at'.tb at'.size idx) s = (.ok (), s1)) :
    fetchCheck la acc at' idx pos level s = fetchCheck la acc { at' with limit := noLimit } idx pos level s1 := by
  rw [fetchCheck, fetchCheck, h, limitCheck_noLimit, andThen_ok]

theorem fetchCheck_of_not_violated (h : ¬ limitViolated idx at'.limit = true) :
    fetchCheck la acc at' idx pos level s = fetchCheck la acc { at' with limit := noLimit } idx pos level s :=
  fetchCheck_of_limitCheck (limitCheck_of_not_violated h)

variable (hlimit : ¬ limitViolated idx at'.limit = true) (ha : a = descAddress at'.tb at'.size idx)
include hlimit ha

theorem fetchCheck_of_fetchDesc_fault (h : fetchDesc la acc level a at'.size pos s = (.fault f, t)) :
    fetchCheck la acc at' idx pos level s = (.fault f, t) := by
  rw [fetchCheck, limitCheck_of_not_violated hlimit, andThen_ok, ← ha, h, andThen_fault]

theorem fetchCheck_of_fetchDesc_ok {d : Desc} (h : fetchDesc la acc level a at'.size pos s = (.ok d, t)) :
    fetchCheck la acc at' idx pos level s
      = if d = .invalid then (.fault (walkRecord t .mmuInvalidDescriptor la acc level (some a)), t)
        else if t.params.supervisorCheck = true ∧ descSupervisor d = true ∧ acc.supervisor = false then
          (.fault (walkRecord t .mmuSupervisorViolation la acc level (some a)), t)
        else (.ok d, t) := by
  rw [fetchCheck, limitCheck_of_not_violated hlimit, andThen_ok, ← ha, h, andThen_ok]
  split
  · rfl
  · split
    · next hsup => rw [supervisorCheck_fault hsup, andThen_fault]
    · next hsup => rw [supervisorCheck_ok hsup, andThen_ok]

/-- A readable short descriptor of a table (R132). -/
theorem fetchCheck_short (hpos : pos ≠ .indirectTarget) (hsize : at'.size = .four)
    (h : physRead .long a s = (.ok d0, t)) : fetchCheck la acc at' idx pos level s
      = if d0 &&& 3 = 0 then (.fault (walkRecord t .mmuInvalidDescriptor la acc level (some a)), t)
        else (.ok (shortDescriptor d0 pos), t) := by
  rw [fetchCheck_of_fetchDesc_ok hlimit ha (hsize ▸ fetchDesc_short h), decodeShort_eq]
  by_cases htype : d0 &&& 3 = 0
  · rw [if_pos htype, if_pos rfl, if_pos htype]
  · have hsup := descSupervisor_shortDescriptor d0 pos
    rw [if_neg htype, if_neg (shortDescriptor_ne_invalid hpos d0), if_neg (by simp [hsup]), if_neg htype]

/-- A readable long descriptor of a table (R133). -/
theorem fetchCheck_long (hpos : pos ≠ .indirectTarget) (hsize : at'.size = .eight)
    (h : physRead .long a s = (.ok d0, t)) (h' : physRead .long (a + 4) t = (.ok d1, u)) :
    fetchCheck la acc at' idx pos level s
      = if d0 &&& 3 = 0 then (.fault (walkRecord u .mmuInvalidDescriptor la acc level (some a)), u)
        else if u.params.supervisorCheck = true ∧ acc.supervisor = false ∧ d0.getLsbD 8 = true
            ∧ (d0 &&& 3 = 1 ∨ pos = .nonLast) then
          (.fault (walkRecord u .mmuSupervisorViolation la acc level (some a)), u)
        else (.ok (longDescriptor d0 d1 pos), u) := by
  rw [fetchCheck_of_fetchDesc_ok hlimit ha (hsize ▸ fetchDesc_long h h'), decodeLong_eq]
  by_cases htype : d0 &&& 3 = 0
  · rw [if_pos htype, if_pos rfl, if_pos htype]
  · rw [if_neg htype, if_neg (longDescriptor_ne_invalid hpos d0 d1), if_neg htype]
    refine if_congr ?_ rfl rfl
    rw [descSupervisor_longDescriptor]
    tauto

end

theorem physRead_params {w : Width} {a : Word} {s t : State} {x : Ans Word} (h : physRead w a s = (x, t)) :
    t.params = s.params := by
  have hstate := physRead_state w a s
  rw [h] at hstate
  rw [show t = _ from hstate]
  split <;> rfl

/-- Settles O40: the limit check first, which leaves the descriptor of a table without a limit; then what `fetchDesc`
answers; then the type and the S bit of the descriptor it decodes. -/
theorem descriptorChecksInOrder : Obligations.DescriptorChecksInOrder := by
  intro la acc at' idx a pos level s ha hpos
  rw [← descAddress_eq] at ha
  rw [← limitViolated_iff]
  refine ⟨fun hviolated => ⟨fetchCheck_limitFault ha hviolated, fun hlog => ?_, fun hoff => ?_⟩,
    fetchCheck_of_not_violated, fun hno => ?_⟩
  · exact fetchCheck_of_limitCheck (limitCheck_log hviolated hlog)
  · exact fetchCheck_of_limitCheck (limitCheck_off hoff)
  · have hlimit : ¬ limitViolated idx at'.limit = true := hno ▸ not_limitViolated_noLimit idx
    refine ⟨fun f t h => fetchCheck_of_fetchDesc_fault hlimit ha (fetchDesc_fault _ h), fun d0 t h =>
      ⟨fun hsize => fetchCheck_short hlimit ha hpos hsize h, fun hsize f u h' => ?_, fun hsize d1 u h' => ?_⟩⟩
    · exact fetchCheck_of_fetchDesc_fault hlimit ha (hsize ▸ fetchDesc_long_fault h h')
    · rw [fetchCheck_long hlimit ha hpos hsize h h', physRead_params h', physRead_params h]

end Sys2Proof.Machine
end

section
/-! PROOFS. Walks written out (R301 to R311): what each kind of descriptor that is read in place does at the level where
it stands, and the walks of one and two tables that are made of them. -/

namespace Sys2Proof.Machine

/-! ### The command and the root (R300 to R302, R320) -/

section
variable {acc : Access} {la : Word} {s t : State}

theorem exec_walk_ok {r : WalkResult} (hmodelled : s.regs.tc.tcUnmodelled = false) (h : walk la acc s = (.ok r, t)) :
    exec (.walk acc la) s = .next (answered t (.walk r)) := by
  rw [exec_eq_deliver, operation, walkCommand, hmodelled, if_neg nofun, h]
  rfl

theorem exec_walk_fault {f : FaultRecord} (hmodelled : s.regs.tc.tcUnmodelled = false)
    (h : walk la acc s = (.fault f, t)) : exec (.walk acc la) s = .next (faulted t f none) := by
  rw [exec_eq_deliver, operation, walkCommand, hmodelled, if_neg nofun, h]
  rfl

theorem walk_invalidRoot (h : (rootPointer acc s.regs).dt = 0) :
    walk la acc s = (.fault (walkRecord s .mmuInvalidDescriptor la acc .root none), s) := if_pos h

theorem walk_pageRoot (h : (rootPointer acc s.regs).dt = 1) :
    walk la acc s = (.ok (finishWalk s la .root (rootPage (rootPointer acc s.regs)) false), s) := by
  simp [walk, h]

theorem walk_tableRoot (h : (rootPointer acc s.regs).dt = 2 ∨ (rootPointer acc s.regs).dt = 3) :
    walk la acc s = walkTables la acc (rootTable (rootPointer acc s.regs)) s := by
  rcases h with h | h <;> simp [walk, h]

theorem rootTable_size_four {rp : RpDecoded} (h : rp.dt = 2) : (rootTable rp).size = .four := by
  rw [rootTable, h]
  rfl

theorem rootTable_size_eight {rp : RpDecoded} (h : rp.dt = 3) : (rootTable rp).size = .eight := by
  rw [rootTable, h]
  rfl

theorem rootTable_admits {rp : RpDecoded} {idx : Word} (h : WithinLimit rp.limitIsLower rp.limit idx) :
    ¬ limitViolated idx (rootTable rp).limit = true :=
  fun hviolated => (limitViolated_iff_not_within idx rfl).mp hviolated h

end

/-! ### The physical address (R310, R311) -/

section
variable (s : State) (la : Word) (p : PageDesc) (wp : Bool)

theorem finishWalk_last : finishWalk s la .last p wp =
    { pa := (p.pg &&& ~~~s.regs.tc.pageMask) ||| (la &&& s.regs.tc.pageMask), ci := p.ci, wp := wp, m := p.m } := by
  rw [finishWalk, finishAddress, if_pos (.inr rfl)]
  rfl

/-- A page descriptor found before the last level, under both early-termination options. -/
theorem finishWalk_early {whereFound : PageAt} (h : whereFound ≠ .last) : finishWalk s la whereFound p wp =
    { pa := if s.params.earlyTermOffset = .pageOffsetOnly then
              (p.pg &&& ~~~s.regs.tc.pageMask) ||| (la &&& s.regs.tc.pageMask)
            else ((p.pg &&& ~~~s.regs.tc.pageMask)
                + (la &&& remainingMask s.regs.tc whereFound &&& ~~~s.regs.tc.pageMask)) ||| (la &&& s.regs.tc.pageMask)
      ci := p.ci, wp := wp, m := p.m } := by
  simp only [finishWalk, finishAddress, or_iff_left h, composePage]

end

theorem remainingField_eq (tc : TcDecoded) (whereFound : PageAt) (l : TableLevel) (h : belowPage whereFound l = true) :
    remainingField tc whereFound l = if levelGet tc.present l then (levelGet tc.table l).mask else 0 := by
  rw [remainingField, h, Bool.and_true]

theorem remainingMask_root (tc : TcDecoded) : remainingMask tc .root =
    (if tc.present.a then tc.table.a.mask else 0) ||| (if tc.present.b then tc.table.b.mask else 0)
      ||| (if tc.present.c then tc.table.c.mask else 0) ||| (if tc.present.d then tc.table.d.mask else 0) := by
  simp only [remainingMask, remainingField_eq tc .root _ rfl]
  rfl

theorem remainingMask_fc (tc : TcDecoded) : remainingMask tc .fc = remainingMask tc .root := rfl

theorem remainingMask_a (tc : TcDecoded) : remainingMask tc (.table .a) =
    (if tc.present.b then tc.table.b.mask else 0) ||| (if tc.present.c then tc.table.c.mask else 0)
      ||| (if tc.present.d then tc.table.d.mask else 0) := by
  have ha : remainingField tc (.table .a) .a = 0 := by rw [remainingField, belowPage, Bool.and_comm]; rfl
  rw [remainingMask, ha, remainingField_eq tc _ .b rfl, remainingField_eq tc _ .c rfl, remainingField_eq tc _ .d rfl]
  exact congrArg (· ||| _ ||| _) BitVec.zero_or

/-! ### The levels visited (R304, R265) -/

/-- A walk visits the levels up to the last one that are present. -/
theorem visitedLevels_eq_filter {tc : TcDecoded} {k : TableLevel} (q : TableLevel → Bool)
    (hlast : tc.lastTableIndex = k) (hq : ∀ j, q j = true → levelIndex j ≤ levelIndex k)
    (h : ∀ j, levelIndex j ≤ levelIndex k → (levelGet tc.present j = true ↔ q j = true)) :
    visitedLevels tc = [TableLevel.a, .b, .c, .d].filter q := by
  refine List.filter_congr fun j _ => Bool.eq_iff_iff.mpr ?_
  rw [visitsLevel, hlast, Bool.and_eq_true, decide_eq_true_iff]
  exact ⟨fun ⟨hj, hle⟩ => (h j hle).mp hj, fun hj => ⟨(h j (hq j hj)).mpr hj, hq j hj⟩⟩

theorem visitedLevels_one {tc : TcDecoded} {l : TableLevel} (hlast : tc.lastTableIndex = l)
    (h : ∀ j, levelIndex j ≤ levelIndex l → (levelGet tc.present j = true ↔ j = l)) : visitedLevels tc = [l] := by
  rw [visitedLevels_eq_filter (fun j => decide (j = l)) hlast (by simp) (by simpa using h)]
  cases l <;> rfl

theorem visitedLevels_two {tc : TcDecoded} {l k : TableLevel} (hlk : levelIndex l < levelIndex k)
    (hlast : tc.lastTableIndex = k)
    (h : ∀ j, levelIndex j ≤ levelIndex k → (levelGet tc.present j = true ↔ j = l ∨ j = k)) :
    visitedLevels tc = [l, k] := by
  have hq : ∀ j, decide (j = l ∨ j = k) = true → levelIndex j ≤ levelIndex k := fun j hj => by
    rcases of_decide_eq_true hj with rfl | rfl
    · exact hlk.le
    · exact le_rfl
  rw [visitedLevels_eq_filter _ hlast hq (by simpa using h)]
  revert hlk
  cases l <;> cases k <;> decide

/-- Level A, where it is present, comes first. -/
theorem visitedLevels_a {tc : TcDecoded} (h : tc.present.a = true) :
    visitedLevels tc = .a :: [TableLevel.b, .c, .d].filter (visitsLevel tc) :=
  List.filter_cons_of_pos (by simp [visitsLevel, levelGet, h, levelIndex])

/-! ### Descriptors that are read in place -/

theorem type_ne {d a : Word} (b : Word) (h : d &&& 3 = a) (hab : a ≠ b) : ¬ d &&& 3 = b := h ▸ hab

theorem shortDescriptor_page {d : Word} (pos : DescPos) (h : d &&& 3 = 1) :
    shortDescriptor d pos = .page (shortPage d) := if_pos h

theorem longDescriptor_page {d0 : Word} (d1 : Word) (pos : DescPos) (h : d0 &&& 3 = 1) :
    longDescriptor d0 d1 pos = .page (longPage d0 d1) := if_pos h

theorem shortDescriptor_table {d : Word} (h : d &&& 3 = 2) :
    shortDescriptor d .nonLast = .table { shortTable d with size := .four } := by
  rw [shortDescriptor, if_neg (type_ne 1 h (by decide)), if_pos h]
  rfl

theorem longDescriptor_table {d0 : Word} (d1 : Word) (h : d0 &&& 3 = 3) :
    longDescriptor d0 d1 .nonLast = .table { longTable d0 d1 with size := .eight } := by
  rw [longDescriptor, if_neg (type_ne 1 h (by decide)), if_neg (type_ne 2 h (by decide)), ← bitField_eq_rawField]
  rfl

section
variable {la : Word} {acc : Access} {at' : WalkAt} {idx d0 d1 : Word} {level : Level} {pos : DescPos} {s : State}

section
variable (hlimit : ¬ limitViolated idx at'.limit = true) (hsize : at'.size = .four)
  (hread : physRead .long (at'.tb + idx * 4) s = (.ok d0, s))
include hlimit hsize hread

theorem fetchCheck_short_in_place (hpos : pos ≠ .indirectTarget) : fetchCheck la acc at' idx pos level s
    = if d0 &&& 3 = 0 then
        (.fault (walkRecord s .mmuInvalidDescriptor la acc level (some (at'.tb + idx * 4))), s)
      else (.ok (shortDescriptor d0 pos), s) :=
  fetchCheck_short hlimit (by rw [hsize]; rfl) hpos hsize hread

theorem fetchCheck_short_invalid (hpos : pos ≠ .indirectTarget) (htype : d0 &&& 3 = 0) :
    fetchCheck la acc at' idx pos level s
      = (.fault (walkRecord s .mmuInvalidDescriptor la acc level (some (at'.tb + idx * 4))), s) :=
  (fetchCheck_short_in_place hlimit hsize hread hpos).trans (if_pos htype)

theorem fetchCheck_short_page (hpos : pos ≠ .indirectTarget) (htype : d0 &&& 3 = 1) :
    fetchCheck la acc at' idx pos level s = (.ok (.page (shortPage d0)), s) := by
  rw [fetchCheck_short_in_place hlimit hsize hread hpos, if_neg (type_ne 0 htype (by decide)),
    shortDescriptor_page pos htype]

theorem fetchCheck_short_table (htype : d0 &&& 3 = 2) :
    fetchCheck la acc at' idx .nonLast level s = (.ok (.table { shortTable d0 with size := .four }), s) := by
  rw [fetchCheck_short_in_place (pos := .nonLast) hlimit hsize hread nofun, if_neg (type_ne 0 htype (by decide)),
    shortDescriptor_table htype]

theorem fetchCheck_short_indirect (htype : d0 &&& 3 = 2 ∨ d0 &&& 3 = 3) : fetchCheck la acc at' idx .last level s
    = (.ok (.indirect (d0 &&& 0xFFFFFFFC) (if d0 &&& 3 = 2 then .four else .eight)), s) := by
  obtain ⟨hvalid, hpage⟩ : d0 &&& 3 ≠ 0 ∧ d0 &&& 3 ≠ 1 := by rcases htype with h | h <;> rw [h] <;> decide
  rw [fetchCheck_short_in_place (pos := .last) hlimit hsize hread nofun, if_neg hvalid, shortDescriptor, if_neg hpage]

end

section
variable (hlimit : ¬ limitViolated idx at'.limit = true) (hsize : at'.size = .eight)
  (hread : physRead .long (at'.tb + idx * 8) s = (.ok d0, s))
  (hread' : physRead .long (at'.tb + idx * 8 + 4) s = (.ok d1, s))
include hlimit hsize hread hread'

theorem fetchCheck_long_page (hpos : pos ≠ .indirectTarget) (htype : d0 &&& 3 = 1) :
    fetchCheck la acc at' idx pos level s
      = if s.params.supervisorCheck = true ∧ acc.supervisor = false ∧ d0.getLsbD 8 = true then
          (.fault (walkRecord s .mmuSupervisorViolation la acc level (some (at'.tb + idx * 8))), s)
        else (.ok (.page (longPage d0 d1)), s) := by
  rw [fetchCheck_long hlimit (by rw [hsize]; rfl) hpos hsize hread hread', if_neg (type_ne 0 htype (by decide)),
    longDescriptor_page d1 pos htype]
  simp only [htype, true_or, and_true]

theorem fetchCheck_long_table (htype : d0 &&& 3 = 3)
    (hsup : ¬ (s.params.supervisorCheck = true ∧ acc.supervisor = false ∧ d0.getLsbD 8 = true)) :
    fetchCheck la acc at' idx .nonLast level s
      = (.ok (.table { longTable d0 d1 with size := .eight }), s) := by
  rw [fetchCheck_long (pos := .nonLast) hlimit (by rw [hsize]; rfl) nofun hsize hread hread',
    if_neg (type_ne 0 htype (by decide)), if_neg (by tauto), longDescriptor_table d1 htype]

end

end

/-! ### What a level does with its descriptor (R303, R304, R306, R307) -/

section
variable {la : Word} {acc : Access} {at' : WalkAt} {l : TableLevel} {ls : List TableLevel} {s t : State}
  {f : FaultRecord} {p : PageDesc} {d : TableDesc}

section
variable (hfcl : s.regs.tc.fcl = true)
include hfcl

theorem walkTables_fc_fault
    (h : fetchCheck la acc at' ((functionCode acc).setWidth 32) .nonLast .fc s = (.fault f, t)) :
    walkTables la acc at' s = (.fault f, t) := by
  rw [walkTables, hfcl, if_neg nofun, h, andThen_fault]

theorem walkTables_fc_page
    (h : fetchCheck la acc at' ((functionCode acc).setWidth 32) .nonLast .fc s = (.ok (.page p), t)) :
    walkTables la acc at' s = (.ok (finishWalk t la .fc p (at'.wp || p.wp)), t) := by
  rw [walkTables, hfcl, if_neg nofun, h, andThen_ok]

theorem walkTables_fc_table
    (h : fetchCheck la acc at' ((functionCode acc).setWidth 32) .nonLast .fc s = (.ok (.table d), t)) :
    walkTables la acc at' s = walkLevels la acc (visitedLevels t.regs.tc) (nextTable at' d) t := by
  rw [walkTables, hfcl, if_neg nofun, h, andThen_ok]

end

section
variable (hlast : l ≠ s.regs.tc.lastTableIndex)
include hlast

theorem walkLevels_fault
    (h : fetchCheck la acc at' (levelIdx s.regs.tc l la) .nonLast (.table l) s = (.fault f, t)) :
    walkLevels la acc (l :: ls) at' s = (.fault f, t) := by
  rw [walkLevels, if_neg hlast, h, andThen_fault]

theorem walkLevels_page
    (h : fetchCheck la acc at' (levelIdx s.regs.tc l la) .nonLast (.table l) s = (.ok (.page p), t)) :
    walkLevels la acc (l :: ls) at' s = (.ok (finishWalk t la (.table l) p (at'.wp || p.wp)), t) := by
  rw [walkLevels, if_neg hlast, h, andThen_ok]

theorem walkLevels_table
    (h : fetchCheck la acc at' (levelIdx s.regs.tc l la) .nonLast (.table l) s = (.ok (.table d), t)) :
    walkLevels la acc (l :: ls) at' s = walkLevels la acc ls (nextTable at' d) t := by
  rw [walkLevels, if_neg hlast, h, andThen_ok]

end

section
variable (hlast : s.regs.tc.lastTableIndex = l)
include hlast

theorem walkLevels_last_fault
    (h : fetchCheck la acc at' (levelIdx s.regs.tc l la) .last (.table l) s = (.fault f, t)) :
    walkLevels la acc (l :: ls) at' s = (.fault f, t) := by
  rw [walkLevels, if_pos hlast.symm, walkLast, h, andThen_fault]

theorem walkLevels_last_page
    (h : fetchCheck la acc at' (levelIdx s.regs.tc l la) .last (.table l) s = (.ok (.page p), t)) :
    walkLevels la acc (l :: ls) at' s = (.ok
      { pa := (p.pg &&& ~~~t.regs.tc.pageMask) ||| (la &&& t.regs.tc.pageMask), ci := p.ci, wp := at'.wp || p.wp
        m := p.m }, t) := by
  rw [walkLevels, if_pos hlast.symm, walkLast, h, andThen_ok, ← finishWalk_last]

theorem walkLevels_last_indirect {ia : Word} {size : DescSize}
    (h : fetchCheck la acc at' (levelIdx s.regs.tc l la) .last (.table l) s = (.ok (.indirect ia size), t)) :
    walkLevels la acc (l :: ls) at' s = andThen (fetchIndirect la acc ia size t) fun p u => (.ok
      { pa := (p.pg &&& ~~~u.regs.tc.pageMask) ||| (la &&& u.regs.tc.pageMask), ci := p.ci, wp := at'.wp || p.wp
        m := p.m }, u) := by
  rw [walkLevels, if_pos hlast.symm, walkLast, h, andThen_ok]
  simp only [finishWalk_last]

end

end

/-! ### The target of an indirection (R309) -/

/-- A target of any type but 1 is no page (R309). -/
theorem decodeShort_indirectTarget (d : Word) : decodeShort d .indirectTarget
    = if d &&& 3 = 1 then .page (shortPage d) else .invalid := by
  rw [decodeShort_eq, shortDescriptor]
  by_cases h : d &&& 3 = 1
  · rw [if_pos h, if_pos h, if_neg (by rw [h]; decide)]
    rfl
  · rw [if_neg h, if_neg h, ite_self]

theorem decodeLong_indirectTarget (d0 d1 : Word) : decodeLong d0 d1 .indirectTarget
    = if d0 &&& 3 = 1 then .page (longPage d0 d1) else .invalid := by
  rw [decodeLong_eq, longDescriptor]
  by_cases h : d0 &&& 3 = 1
  · rw [if_pos h, if_pos h, if_neg (by rw [h]; decide)]
    rfl
  · rw [if_neg h, if_neg h, ite_self]

section
variable {la : Word} {acc : Access} {ia d0 d1 : Word} {size : DescSize} {s t u : State}

theorem fetchIndirect_invalid (h : fetchDesc la acc .indirect ia size .indirectTarget s = (.ok .invalid, t)) :
    fetchIndirect la acc ia size s = (.fault (walkRecord t .mmuInvalidDescriptor la acc .indirect (some ia)), t) := by
  rw [fetchIndirect, h]
  rfl

theorem fetchIndirect_page {p : PageDesc}
    (h : fetchDesc la acc .indirect ia size .indirectTarget s = (.ok (.page p), t)) :
    fetchIndirect la acc ia size s
      = if t.params.supervisorCheck = true ∧ acc.supervisor = false ∧ p.s = true then
          (.fault (walkRecord t .mmuSupervisorViolation la acc .indirect (some ia)), t)
        else (.ok p, t) := by
  rw [fetchIndirect, h, andThen_ok]
  dsimp only
  split
  · next hsup =>
    obtain ⟨hcheck, huser, hs⟩ := hsup
    rw [supervisorCheck_fault (d := .page p) ⟨hcheck, hs, huser⟩, andThen_fault]
  · next hsup =>
    rw [supervisorCheck_ok (d := .page p) fun ⟨hcheck, hs, huser⟩ => hsup ⟨hcheck, huser, hs⟩, andThen_ok]

section
variable (hread : physRead .long ia s = (.ok d0, t))
include hread

/-- A short page has no S bit (R132). -/
theorem fetchIndirect_short_page (hpage : d0 &&& 3 = 1) :
    fetchIndirect la acc ia .four s = (.ok (shortPage d0), t) := by
  rw [fetchIndirect_page ((fetchDesc_short hread).trans (by rw [decodeShort_indirectTarget, if_pos hpage])),
    if_neg (by simp [shortPage])]

theorem fetchIndirect_short_not_page (hpage : d0 &&& 3 ≠ 1) : fetchIndirect la acc ia .four s
    = (.fault (walkRecord t .mmuInvalidDescriptor la acc .indirect (some ia)), t) :=
  fetchIndirect_invalid ((fetchDesc_short hread).trans (by rw [decodeShort_indirectTarget, if_neg hpage]))

variable (hread' : physRead .long (ia + 4) t = (.ok d1, u))
include hread'

theorem fetchIndirect_long_page (hpage : d0 &&& 3 = 1) : fetchIndirect la acc ia .eight s
    = if u.params.supervisorCheck = true ∧ acc.supervisor = false ∧ d0.getLsbD 8 = true then
        (.fault (walkRecord u .mmuSupervisorViolation la acc .indirect (some ia)), u)
      else (.ok (longPage d0 d1), u) :=
  fetchIndirect_page ((fetchDesc_long hread hread').trans (by rw [decodeLong_indirectTarget, if_pos hpage]))

theorem fetchIndirect_long_not_page (hpage : d0 &&& 3 ≠ 1) : fetchIndirect la acc ia .eight s
    = (.fault (walkRecord u .mmuInvalidDescriptor la acc .indirect (some ia)), u) :=
  fetchIndirect_invalid ((fetchDesc_long hread hread').trans (by rw [decodeLong_indirectTarget, if_neg hpage]))

end

end

/-! ### Walks from a root that points to tables -/

section
variable {acc : Access} {la : Word} {s : State} {rp : RpDecoded}

/-- Without a function-code level the levels are walked from the root's table (R302, R304). -/
theorem walk_levels_of_tableRoot (hrp : rp = rootPointer acc s.regs) (hdt : rp.dt = 2 ∨ rp.dt = 3)
    (hfcl : s.regs.tc.fcl = false) :
    walk la acc s = walkLevels la acc (visitedLevels s.regs.tc) (rootTable rp) s := by
  subst hrp
  rw [walk_tableRoot hdt, walkTables, if_pos hfcl]

/-- A root of type 3 over levels A and B, where the descriptor at level A is a long table: what is found at level B,
with the limit of that descriptor, decides. -/
theorem walk_longTables {d0 e0 : Word} (hrp : rp = rootPointer acc s.regs) (hdt : rp.dt = 3)
    (hfcl : s.regs.tc.fcl = false) (hpresent : s.regs.tc.present = ⟨true, true, false, false⟩)
    (hlast : s.regs.tc.lastTableIndex = .b)
    (hwithin : WithinLimit rp.limitIsLower rp.limit (levelIdx s.regs.tc .a la))
    (hread : physRead .long (rp.tableAddress + levelIdx s.regs.tc .a la * 8) s = (.ok d0, s))
    (hread' : physRead .long (rp.tableAddress + levelIdx s.regs.tc .a la * 8 + 4) s = (.ok e0, s))
    (htype : d0 &&& 3 = 3)
    (hsup : ¬ (s.params.supervisorCheck = true ∧ acc.supervisor = false ∧ d0.getLsbD 8 = true)) :
    walk la acc s
      = walkLevels la acc [.b] (nextTable (rootTable rp) { longTable d0 e0 with size := .eight }) s := by
  have hvisited : visitedLevels s.regs.tc = [.a, .b] :=
    visitedLevels_two (by decide) hlast fun j _ => by rw [hpresent]; cases j <;> simp [levelGet]
  have hfirst : fetchCheck la acc (rootTable rp) (levelIdx s.regs.tc .a la) .nonLast (.table .a) s
      = (.ok (.table { longTable d0 e0 with size := .eight }), s) :=
    fetchCheck_long_table (rootTable_admits hwithin) (rootTable_size_eight hdt) hread hread' htype hsup
  rw [walk_levels_of_tableRoot hrp (.inr hdt) hfcl, hvisited, walkLevels_table (by rw [hlast]; decide) hfirst]

end

/-- Settles O37: the walk visits the two levels; the table descriptor at the first leads, with no limit, to the page
descriptor at the second. -/
theorem walkOfTwoShortLevels : Obligations.WalkOfTwoShortLevels := by
  rintro acc la d0 d1 _ _ s rp _ l k hmodelled rfl hfcl hlk hlast hpresent hrp hdt rfl rfl hwithin hread0 htype0 hread1
    htype1
  refine exec_walk_ok hmodelled ?_
  have hl : l ≠ s.regs.tc.lastTableIndex := by
    rintro rfl
    exact absurd hlk (hlast ▸ lt_irrefl _)
  have hfirst : fetchCheck la acc (rootTable rp) (levelIdx s.regs.tc l la) .nonLast (.table l) s
      = (.ok (.table { shortTable d0 with size := .four }), s) :=
    fetchCheck_short_table (rootTable_admits hwithin) (rootTable_size_four hdt) hread0 htype0
  have hsecond : fetchCheck la acc (nextTable (rootTable rp) { shortTable d0 with size := .four })
      (levelIdx s.regs.tc k la) .last (.table k) s = (.ok (.page (shortPage d1)), s) :=
    fetchCheck_short_page (not_limitViolated_noLimit _) rfl hread1 nofun htype1
  rw [walk_levels_of_tableRoot hrp (.inl hdt) hfcl, visitedLevels_two hlk hlast hpresent, walkLevels_table hl hfirst,
    walkLevels_last_page hlast hsecond]
  rfl

/-- Settles O38: level A is the first visited, and what the descriptor there is decides. -/
theorem walkEndsEarlyAtLevelA : Obligations.WalkEndsEarlyAtLevelA := by
  rintro acc la d0 _ s rp _ _ hmodelled rfl hfcl hpresent hlast hrp hdt rfl rfl hwithin hread
  have hlimit := rootTable_admits (rp := rp) hwithin
  have hsize := rootTable_size_four hdt
  have hwalk : walk la acc s = walkLevels la acc _ (rootTable rp) s :=
    (walk_levels_of_tableRoot hrp (.inl hdt) hfcl).trans (by rw [visitedLevels_a hpresent])
  constructor
  · intro htype
    refine exec_walk_fault hmodelled (hwalk.trans (walkLevels_fault hlast.symm ?_))
    exact fetchCheck_short_invalid hlimit hsize hread nofun htype
  · intro htype
    refine exec_walk_ok hmodelled (hwalk.trans ?_)
    rw [walkLevels_page hlast.symm (fetchCheck_short_page hlimit hsize hread nofun htype), ← remainingMask_a,
      finishWalk_early _ _ _ _ (by decide)]
    rfl

/-- Settles O39: the one level visited leads to the target; what `fetchDesc` decodes there, a page or not, decides. -/
theorem walkFollowsOneIndirection : Obligations.WalkFollowsOneIndirection := by
  rintro acc la d0 d1 _ _ s rp _ l hmodelled rfl hfcl hlast hpresent hrp hdt rfl hwithin hread rfl hread1
  have hwalk (htype : d0 &&& 3 = 2 ∨ d0 &&& 3 = 3) := (walk_levels_of_tableRoot (la := la) hrp (.inl hdt) hfcl).trans
    (visitedLevels_one hlast hpresent ▸ walkLevels_last_indirect (ls := []) hlast
      (fetchCheck_short_indirect (rootTable_admits hwithin) (rootTable_size_four hdt) hread htype))
  refine ⟨fun htype => ?_, fun htype e1 hread2 => ?_⟩
  · specialize hwalk (.inl htype)
    rw [if_pos htype] at hwalk
    refine ⟨fun hpage => exec_walk_ok hmodelled ?_, fun hpage => exec_walk_fault hmodelled ?_⟩
    · rw [hwalk, fetchIndirect_short_page hread1 hpage]
      rfl
    · rw [hwalk, fetchIndirect_short_not_page hread1 hpage, andThen_fault]
  · specialize hwalk (.inr htype)
    rw [if_neg (type_ne 2 htype (by decide))] at hwalk
    refine ⟨fun hpage => ?_, fun hpage => exec_walk_fault hmodelled ?_⟩
    · rw [fetchIndirect_long_page hread1 hread2 hpage] at hwalk
      split
      · next hsup => exact exec_walk_fault hmodelled (hwalk.trans (by rw [if_pos hsup, andThen_fault]))
      · next hsup => exact exec_walk_ok hmodelled (hwalk.trans (by rw [if_neg hsup]; rfl))
    · rw [hwalk, fetchIndirect_long_not_page hread1 hread2 hpage, andThen_fault]

/-! ### Walks from each type of root -/

section
variable {acc : Access} {la : Word} {s : State} {rp : RpDecoded}
  (hmodelled : s.regs.tc.tcUnmodelled = false) (hrp : rp = rootPointer acc s.regs)
include hmodelled hrp

theorem exec_walk_invalidRoot (hdt : rp.dt = 0) : exec (.walk acc la) s
    = .next (faulted s (walkRecord s .mmuInvalidDescriptor la acc .root none) none) :=
  exec_walk_fault hmodelled (walk_invalidRoot (hrp ▸ hdt))

theorem exec_walk_pageRoot (hdt : rp.dt = 1) : exec (.walk acc la) s = .next (answered s (.walk
    { pa := if s.params.earlyTermOffset = .pageOffsetOnly then
              (rp.tableAddress &&& ~~~s.regs.tc.pageMask) ||| (la &&& s.regs.tc.pageMask)
            else ((rp.tableAddress &&& ~~~s.regs.tc.pageMask)
                + (la &&& remainingMask s.regs.tc .root &&& ~~~s.regs.tc.pageMask)) ||| (la &&& s.regs.tc.pageMask)
      ci := false, wp := false, m := false })) := by
  subst hrp
  refine exec_walk_ok hmodelled ?_
  rw [walk_pageRoot hdt, finishWalk_early _ _ _ _ (by decide)]
  rfl

section
variable (hdt : rp.dt = 2) (hfcl : s.regs.tc.fcl = true)
include hdt hfcl

theorem exec_walk_fc_fault {f : FaultRecord} (h : fetchCheck la acc (rootTable rp)
      ((functionCode acc).setWidth 32) .nonLast .fc s = (.fault f, s)) :
    exec (.walk acc la) s = .next (faulted s f none) := by
  subst hrp
  exact exec_walk_fault hmodelled ((walk_tableRoot (.inl hdt)).trans (walkTables_fc_fault hfcl h))

variable {d0 : Word}
  (hlimit : WithinLimit rp.limitIsLower rp.limit ((functionCode acc).setWidth 32))
  (hread : physRead .long (rp.tableAddress + (functionCode acc).setWidth 32 * 4) s = (.ok d0, s))
include hlimit hread

theorem exec_walk_fc_page (htype : d0 &&& 3 = 1) : exec (.walk acc la) s = .next (answered s (.walk
    { pa := if s.params.earlyTermOffset = .pageOffsetOnly then
              (d0 &&& 0xFFFFFF00 &&& ~~~s.regs.tc.pageMask) ||| (la &&& s.regs.tc.pageMask)
            else ((d0 &&& 0xFFFFFF00 &&& ~~~s.regs.tc.pageMask)
                + (la &&& remainingMask s.regs.tc .root &&& ~~~s.regs.tc.pageMask)) ||| (la &&& s.regs.tc.pageMask)
      ci := d0.getLsbD 6, wp := d0.getLsbD 2, m := d0.getLsbD 4 })) := by
  have hfc := fetchCheck_short_page (la := la) (acc := acc) (level := .fc) (pos := .nonLast) (rootTable_admits hlimit)
    (rootTable_size_four hdt) hread nofun htype
  subst hrp
  refine exec_walk_ok hmodelled ?_
  rw [walk_tableRoot (.inl hdt), walkTables_fc_page hfcl hfc, finishWalk_early _ _ _ _ (by decide),
    remainingMask_fc]
  rfl

theorem exec_walk_fc_table {d1 : Word} (htype : d0 &&& 3 = 2) (hpresent : s.regs.tc.present.a = true)
    (hlast : s.regs.tc.lastTableIndex = .a)
    (hread' : physRead .long ((d0 &&& 0xFFFFFFF0) + levelIdx s.regs.tc .a la * 4) s = (.ok d1, s))
    (htype' : d1 &&& 3 = 1) : exec (.walk acc la) s = .next (answered s (.walk
      { pa := (d1 &&& 0xFFFFFF00 &&& ~~~s.regs.tc.pageMask) ||| (la &&& s.regs.tc.pageMask), ci := d1.getLsbD 6
        wp := d0.getLsbD 2 || d1.getLsbD 2, m := d1.getLsbD 4 })) := by
  have hfc : fetchCheck la acc (rootTable rp) ((functionCode acc).setWidth 32) .nonLast .fc s
      = (.ok (.table { shortTable d0 with size := .four }), s) :=
    fetchCheck_short_table (rootTable_admits hlimit) (rootTable_size_four hdt) hread htype
  have ha : fetchCheck la acc (nextTable (rootTable rp) { shortTable d0 with size := .four })
      (levelIdx s.regs.tc .a la) .last (.table .a) s = (.ok (.page (shortPage d1)), s) :=
    fetchCheck_short_page (not_limitViolated_noLimit _) rfl hread' nofun htype'
  subst hrp
  refine exec_walk_ok hmodelled ?_
  rw [walk_tableRoot (.inl hdt), walkTables_fc_table hfcl hfc, visitedLevels_a hpresent,
    walkLevels_last_page hlast ha]
  rfl

end

end

/-- Settles O36: one lemma for each type of root; under a root of type 3 the limit of the table descriptor at level A,
from bits 30:16 and 31 of its first word, decides on the fetch at level B. -/
theorem walkFromTheRoot : Obligations.WalkFromTheRoot := by
  rintro acc la s rp _ _ fi _ _ hmodelled rfl hrp rfl hfi rfl rfl
  rw [← remainingMask_root]
  obtain rfl : fi = (functionCode acc).setWidth 32 := BitVec.eq_of_toNat_eq <| hfi.trans <| by
    rw [BitVec.toNat_setWidth, Nat.mod_eq_of_lt (lt_trans (functionCode acc).isLt (by decide))]
  refine ⟨exec_walk_invalidRoot hmodelled hrp, fun hdt hopt => ?_, fun hdt hopt => ?_, fun hdt hfcl =>
    ⟨fun hlimit hfault => ?_, fun hwithin d0 hread => ⟨fun htype => ?_, ?_, ?_⟩⟩,
    fun hdt hfcl hpresent hlast hwithin d0 e0 hread hread' htype hsup => ?_⟩
  · rw [exec_walk_pageRoot hmodelled hrp hdt, if_pos hopt]
  · rw [exec_walk_pageRoot hmodelled hrp hdt, if_neg (by rw [hopt]; decide)]
  · exact exec_walk_fc_fault hmodelled hrp hdt hfcl (fetchCheck_limitFault
      (by rw [rootTable_size_four hdt]; rfl) ((limitViolated_iff_not_within _ rfl).mpr hlimit) hfault)
  · exact exec_walk_fc_fault hmodelled hrp hdt hfcl
      (fetchCheck_short_invalid (rootTable_admits hwithin) (rootTable_size_four hdt) hread nofun htype)
  · exact exec_walk_fc_page hmodelled hrp hdt hfcl hwithin hread
  · exact fun htype hpresent hlast d1 => exec_walk_fc_table hmodelled hrp hdt hfcl hwithin hread htype hpresent hlast
  · have hwalk := walk_longTables hrp hdt hfcl hpresent hlast hwithin hread hread' htype hsup
    rw [← bitField_eq_rawField]
    refine ⟨fun hlimit hfault => ?_, fun hwithin' d1 e1 hread1 hread1' htype' => ?_⟩
    · refine exec_walk_fault hmodelled (hwalk.trans (walkLevels_last_fault hlast ?_))
      exact fetchCheck_limitFault rfl ((limitViolated_iff_not_within _ rfl).mpr hlimit) hfault
    · have hb : fetchCheck la acc (nextTable (rootTable rp) { longTable d0 e0 with size := .eight })
          (levelIdx s.regs.tc .b la) .last (.table .b) s = _ :=
        fetchCheck_long_page (fun h => (limitViolated_iff_not_within _ rfl).mp h hwithin') rfl hread1 hread1' nofun
          htype'
      split
      · next hsup' =>
        rw [if_pos hsup'] at hb
        exact exec_walk_fault hmodelled (hwalk.trans (walkLevels_last_fault hlast hb))
      · next hsup' =>
        rw [if_neg hsup'] at hb
        exact exec_walk_ok hmodelled (hwalk.trans (walkLevels_last_page hlast hb))

end Sys2Proof.Machine
end

section
/-! PROOFS. What a walk is made of (R300 to R315): descriptor fetches, logged limit events and ends, in sequence, and
choices that rest on the registers, the parameters and the function code alone. What holds of all that is made so holds
of a walk. -/

namespace Sys2Proof.Machine

variable {α β : Type}

/-- Two states in which all that a walk reads but memory is the same. -/
structure SameInputs (s t : State) : Prop where
  tc : t.regs.tc = s.regs.tc
  srp : t.regs.srp = s.regs.srp
  crp : t.regs.crp = s.regs.crp
  params : t.params = s.params
  diagPc : t.diagPc = s.diagPc

/-- A value that a walk finds without a fetch: the same in states with the same inputs, and for a read and a write. -/
structure ReadsInputs (v : Access → State → α) : Prop where
  same : ∀ {acc acc' : Access} {s t : State}, acc'.supervisor = acc.supervisor → acc'.data = acc.data →
    SameInputs s t → v acc' t = v acc s

/-- The parts of a walk of `la`, each with a bound on the descriptors it fetches and on the limit events it logs. -/
inductive WalkPart (la : Word) : {α : Type} → Nat → Nat → (Access → State → Ans α × State) → Prop
  | ok {α : Type} {n k : Nat} (a : α) : WalkPart la n k fun _ s => (.ok a, s)
  | fault {α : Type} {n k : Nat} (kind : FaultKind) (level : Level) (desc : Option Word)
      (hkind : kind ≠ .mmuDirectionViolation) :
      WalkPart (α := α) la n k fun acc s => (.fault (walkFault kind la acc level desc s.diagPc), s)
  | refuse {α : Type} {n k : Nat} (r : RefuseReason) : WalkPart (α := α) la n k fun _ s => (.refuse r, s)
  | logLimit {n k : Nat} (level : Level) (idx : Word) (lim : Limit) : WalkPart la n (k + 1) fun _ s =>
      (.ok (), s.log (.limitViolationLogged level idx lim.limit lim.lower s.diagPc))
  | fetch {n k : Nat} (level : Level) (a : Word) (size : DescSize) (pos : DescPos) :
      WalkPart la (n + 1) k fun acc s => fetchDesc la acc level a size pos s
  | seq {α β : Type} {n n' k k' : Nat} {f : Access → State → Ans α × State} {g : α → Access → State → Ans β × State}
      (hf : WalkPart la n k f) (hg : ∀ a, WalkPart la n' k' (g a)) :
      WalkPart la (n' + n) (k' + k) fun acc s => andThen (f acc s) fun a t => g a acc t
  | choose {α ι : Type} {n k : Nat} {f : ι → Access → State → Ans α × State} (v : Access → State → ι)
      (hv : ReadsInputs v) (hf : ∀ i, WalkPart la n k (f i)) : WalkPart la n k fun acc s => f (v acc s) acc s

/-! ### Choices -/

section
variable {la : Word} {n k : Nat} {f g : Access → State → Ans α × State}

/-- What is a part for each value of something that a walk finds without a fetch is a part. -/
theorem WalkPart.of_value {ι : Type} (v : Access → State → ι) (hv : ReadsInputs v)
    (h : ∀ i, ∃ g, WalkPart la n k g ∧ ∀ acc s, v acc s = i → f acc s = g acc s) : WalkPart la n k f := by
  choose g hg heq using h
  have hf : f = fun acc s => g (v acc s) acc s := by
    funext acc s
    exact heq (v acc s) acc s rfl
  rw [hf]
  exact .choose v hv hg

theorem WalkPart.ite {c : Access → State → Prop} [∀ acc s, Decidable (c acc s)] (hc : ReadsInputs c)
    (hf : WalkPart la n k f) (hg : WalkPart la n k g) :
    WalkPart la n k fun acc s => if c acc s then f acc s else g acc s := by
  refine .of_value c hc fun i => ?_
  by_cases hi : i
  · exact ⟨f, hf, fun acc s h => if_pos (h ▸ hi)⟩
  · exact ⟨g, hg, fun acc s h => if_neg (h ▸ hi)⟩

theorem WalkPart.answer {v : Access → State → α} (hv : ReadsInputs v) :
    WalkPart la n k fun acc s => (.ok (v acc s), s) :=
  .choose v hv fun a => .ok a

theorem readsInputs_const (a : α) : ReadsInputs fun _ _ => a := ⟨fun _ _ _ => rfl⟩

theorem readsInputs_tc (v : TcDecoded → α) : ReadsInputs fun _ s => v s.regs.tc :=
  ⟨fun _ _ h => congrArg v h.tc⟩

theorem readsInputs_params (v : Params → α) : ReadsInputs fun _ s => v s.params :=
  ⟨fun _ _ h => congrArg v h.params⟩

theorem readsInputs_functionCode (v : BitVec 3 → α) : ReadsInputs fun acc _ => v (functionCode acc) :=
  ⟨fun hsup hdata _ => by simp only [functionCode, hsup, hdata]⟩

theorem readsInputs_rootPointer (v : RpDecoded → α) : ReadsInputs fun acc s => v (rootPointer acc s.regs) :=
  ⟨fun hsup _ h => by simp only [rootPointer, hsup, h.tc, h.srp, h.crp]⟩

theorem readsInputs_finishWalk (la : Word) (whereFound : PageAt) (p : PageDesc) (wp : Bool) :
    ReadsInputs fun _ s => finishWalk s la whereFound p wp :=
  ⟨fun _ _ h => by simp only [finishWalk, h.tc, h.params]⟩

end

/-! ### The walk is made of such parts -/

section
variable (la : Word) (n k : Nat)

theorem limitCheck_walkPart (level : Level) (idx : Word) (lim : Limit) (a : Word) :
    WalkPart la n (k + 1) fun acc s => limitCheck la acc level idx lim a s := by
  by_cases hviolated : limitViolated idx lim = true
  · refine .of_value _ (readsInputs_params Params.limitCheck) fun option => ?_
    cases option with
    | off => exact ⟨_, .ok (), fun acc s hoff => limitCheck_off hoff⟩
    | log => exact ⟨_, .logLimit level idx lim, fun acc s hlog => limitCheck_log hviolated hlog⟩
    | fault =>
      exact ⟨_, .fault .mmuLimitViolation level (some a) nofun, fun acc s => limitCheck_fault hviolated⟩
  · simp only [limitCheck_of_not_violated hviolated]
    exact .ok ()

theorem supervisorCheck_walkPart (level : Level) (d : Desc) (a : Word) :
    WalkPart la n k fun acc s => supervisorCheck la acc level d a s := by
  refine .ite ⟨fun hsup _ h => ?_⟩ (.fault _ level (some a) nofun) (.ok ())
  rw [hsup, h.params]

theorem fetchCheck_walkPart (at' : WalkAt) (idx : Word) (pos : DescPos) (level : Level) :
    WalkPart la (n + 1) (k + 1) fun acc s => fetchCheck la acc at' idx pos level s := by
  refine .seq (n := 0) (k := 1) (limitCheck_walkPart ..) fun _ => .seq (n := 1) (k := 0) (.fetch ..) fun d => ?_
  exact .ite (readsInputs_const _) (.fault _ level _ nofun)
    (.seq (n := 0) (k := 0) (supervisorCheck_walkPart ..) fun _ => .ok d)

theorem fetchIndirect_walkPart (ia : Word) (size : DescSize) :
    WalkPart la (n + 1) k fun acc s => fetchIndirect la acc ia size s := by
  refine .seq (n := 1) (k := 0) (.fetch ..) fun d => ?_
  cases d with
  | page p => exact .seq (n := 0) (k := 0) (supervisorCheck_walkPart ..) fun _ => .ok p
  | invalid | table | indirect => exact .fault _ .indirect (some ia) nofun

theorem fetchCheck_level_walkPart (at' : WalkAt) (l : TableLevel) (pos : DescPos) : WalkPart la (n + 1) (k + 1)
    fun acc s => fetchCheck la acc at' (levelIdx s.regs.tc l la) pos (.table l) s :=
  .choose _ (readsInputs_tc fun tc => levelIdx tc l la) fun idx => fetchCheck_walkPart la n k at' idx pos (.table l)

theorem walkLast_walkPart (l : TableLevel) (at' : WalkAt) :
    WalkPart la (n + 2) (k + 1) fun acc s => walkLast la acc l at' s := by
  refine .seq (n := 1) (k := 1) (fetchCheck_level_walkPart ..) fun d => ?_
  cases d with
  | page p => exact .answer (readsInputs_finishWalk ..)
  | indirect ia size =>
    exact .seq (n := 1) (k := 0) (fetchIndirect_walkPart ..) fun p => .answer (readsInputs_finishWalk ..)
  | invalid | table => exact .fault _ (.table l) none nofun

theorem walkLevels_walkPart (ls : List TableLevel) (at' : WalkAt) (hn : ls.length ≤ n) :
    WalkPart la (n + 1) n fun acc s => walkLevels la acc ls at' s := by
  induction ls generalizing n at' with
  | nil => exact .refuse _
  | cons l ls ih =>
    obtain ⟨n, rfl⟩ := Nat.exists_eq_add_of_le' (Nat.le_trans (Nat.le_add_left 1 ls.length) hn)
    refine .ite (readsInputs_tc fun tc => l = tc.lastTableIndex) (walkLast_walkPart ..) ?_
    refine .seq (n := 1) (k := 1) (fetchCheck_level_walkPart ..) fun d => ?_
    cases d with
    | page p => exact .answer (readsInputs_finishWalk ..)
    | table t => exact ih n (nextTable at' t) (Nat.le_of_succ_le_succ hn)
    | invalid | indirect => exact .fault _ (.table l) none nofun

theorem visitedLevels_length_le (tc : TcDecoded) : (visitedLevels tc).length ≤ 4 := List.length_filter_le ..

/-- At most four levels are visited (R304). -/
theorem walkLevels_visited_walkPart (at' : WalkAt) (hn : 4 ≤ n) :
    WalkPart la (n + 1) n fun acc s => walkLevels la acc (visitedLevels s.regs.tc) at' s :=
  .choose _ (readsInputs_tc id) fun tc =>
    walkLevels_walkPart la n (visitedLevels tc) at' ((visitedLevels_length_le tc).trans hn)

/-- The function-code level and four more, and an indirection: six descriptors, five of them in tables (R308). -/
theorem walkTables_walkPart (at' : WalkAt) : WalkPart la 6 5 fun acc s => walkTables la acc at' s := by
  refine .ite (readsInputs_tc fun tc => tc.fcl = false) (walkLevels_visited_walkPart la 5 at' (by decide)) ?_
  refine .seq (n := 1) (k := 1) (n' := 5) (k' := 4) ?_ fun d => ?_
  · exact .choose _ (readsInputs_functionCode fun fc => fc.setWidth 32) fun idx =>
      fetchCheck_walkPart la 0 0 at' idx .nonLast .fc
  · cases d with
    | page p => exact .answer (readsInputs_finishWalk ..)
    | table t => exact walkLevels_visited_walkPart la 4 (nextTable at' t) (le_refl 4)
    | invalid | indirect => exact .fault _ .fc none nofun

theorem walk_walkPart : WalkPart la 6 5 fun acc s => walk la acc s := by
  refine .ite (readsInputs_rootPointer fun rp => rp.dt = 0) (.fault _ .root none nofun)
    (.ite (readsInputs_rootPointer fun rp => rp.dt = 1) ?_ ?_)
  · refine .of_value _ (readsInputs_rootPointer id) fun rp => ⟨_, .answer (readsInputs_finishWalk la .root
      (rootPage rp) false), ?_⟩
    rintro acc s rfl
    rfl
  · exact .choose _ (readsInputs_rootPointer id) fun rp => walkTables_walkPart la (rootTable rp)

/-- What WALK does before its end is a part of a walk (R320). -/
theorem walkCommand_walkPart : WalkPart la 6 5 fun acc s => walkCommand acc la s :=
  .ite (readsInputs_tc fun tc => tc.tcUnmodelled = true) (.refuse _)
    (.seq (n' := 0) (k' := 0) (walk_walkPart la) fun r => .ok (Result.walk r))

end

end Sys2Proof.Machine
end

section
/-! PROOFS. What holds of every walk (R300, R314, R316), by induction over what a walk is made of: its frame and its
faults, that a result does not depend on the direction, and that runs over the same memory repeat each other. -/

namespace Sys2Proof.Machine

variable {α β : Type}

/-! ### The frame and the fault records (R300) -/

theorem WalkPart.frame {la : Word} {n k : Nat} {f : Access → State → Ans α × State} (h : WalkPart la n k f)
    (acc : Access) (s : State) : FetchFrame s (f acc s).2 := by
  induction h generalizing s with
  | ok | fault | refuse => exact .refl s
  | logLimit => exact limitLog_frame ..
  | fetch => exact fetchDesc_frame ..
  | seq _ _ ihf ihg => exact andThen_frame (ihf s) fun a _ => ihg a _
  | choose v _ _ ih => exact ih (v acc s) s

/-- The fault of a walk: one of four kinds, with the address, the access and the level. -/
structure WalkFault (la : Word) (acc : Access) (f : FaultRecord) : Prop where
  la : f.la = some la
  acc : f.acc = some acc
  level : f.level ≠ none
  kind : f.kind = .busError ∨ f.kind = .mmuInvalidDescriptor ∨ f.kind = .mmuLimitViolation
    ∨ f.kind = .mmuSupervisorViolation

theorem walkFault_isWalkFault {kind : FaultKind} (hkind : kind ≠ .mmuDirectionViolation) (la : Word) (acc : Access)
    (level : Level) (desc : Option Word) (pc : Word) : WalkFault la acc (walkFault kind la acc level desc pc) where
  la := rfl
  acc := rfl
  level := nofun
  kind := by
    change kind = _ ∨ kind = _ ∨ kind = _ ∨ kind = _
    cases kind with
    | mmuDirectionViolation => exact absurd rfl hkind
    | _ => decide

theorem fetchLong_isWalkFault {la : Word} {acc : Access} {level : Level} {a : Word} {s t : State} {e : FaultRecord}
    (h : fetchLong la acc level a s = (.fault e, t)) : WalkFault la acc e := by
  obtain rfl : fetchFault la acc level a s.diagPc = e := by
    rw [fetchLong] at h
    generalize physRead .long a s = x at h
    obtain ⟨_ | _ | _, u⟩ := x <;> cases h
    rfl
  exact ⟨rfl, rfl, nofun, .inl rfl⟩

theorem fetchDesc_isWalkFault {la : Word} {acc : Access} {level : Level} {a : Word} {size : DescSize} {pos : DescPos}
    {s t : State} {e : FaultRecord} (h : fetchDesc la acc level a size pos s = (.fault e, t)) : WalkFault la acc e := by
  rcases andThen_eq_fault.mp h with hfirst | ⟨d0, u, -, hrest⟩
  · exact fetchLong_isWalkFault hfirst
  · cases size with
    | four => cases hrest
    | eight =>
      rcases andThen_eq_fault.mp hrest with hsecond | ⟨d1, v, -, hend⟩
      · exact fetchLong_isWalkFault hsecond
      · cases hend

theorem WalkPart.isWalkFault {la : Word} {n k : Nat} {f : Access → State → Ans α × State} (h : WalkPart la n k f)
    {acc : Access} {s t : State} {e : FaultRecord} (he : f acc s = (.fault e, t)) : WalkFault la acc e := by
  induction h generalizing s t with
  | ok | refuse | logLimit => cases he
  | fault kind level desc hkind => cases he; exact walkFault_isWalkFault hkind ..
  | fetch => exact fetchDesc_isWalkFault he
  | seq _ _ ihf ihg =>
    rcases andThen_eq_fault.mp he with hfirst | ⟨a, u, -, hrest⟩
    · exact ihf hfirst
    · exact ihg a hrest
  | choose v _ _ ih => exact ih _ he

/-- WALK ends as the part of a walk that it is does (R13, R320). -/
theorem exec_walk_cases (acc : Access) (la : Word) (s : State) :
    (∃ r u, walkCommand acc la s = (.ok (.walk r), u) ∧ exec (.walk acc la) s = .next (answered u (.walk r))) ∨
    (∃ f u, walkCommand acc la s = (.fault f, u) ∧ exec (.walk acc la) s = .next (faulted u f none)) ∨
    (∃ r u, walkCommand acc la s = (.refuse r, u) ∧ exec (.walk acc la) s = .next (refusedWith u r)) := by
  rw [exec_eq_deliver, operation]
  unfold walkCommand
  split
  · exact .inr (.inr ⟨_, _, rfl, rfl⟩)
  · rcases walk la acc s with ⟨r | f | r, u⟩
    · exact .inl ⟨r, u, rfl, rfl⟩
    · exact .inr (.inl ⟨f, u, rfl, rfl⟩)
    · exact .inr (.inr ⟨r, u, rfl, rfl⟩)

/-- Settles O35: the frame of a walk and the shape of its faults. -/
theorem walkChangesOnlyTheHistories : Obligations.WalkChangesOnlyTheHistories := by
  intro acc la s t h
  refine ⟨(walkCommand acc la s).2, walkCommand_frame acc la s, ?_⟩
  rcases exec_walk_cases acc la s with ⟨r, u, hwalk, hexec⟩ | ⟨f, u, hwalk, hexec⟩ | ⟨r, u, hwalk, hexec⟩ <;>
    rw [hexec] at h <;> cases h <;> rw [hwalk]
  · exact .inl ⟨r, rfl⟩
  · obtain ⟨hla, hacc, hlevel, hkind⟩ := (walkCommand_walkPart la).isWalkFault hwalk
    exact .inr (.inr ⟨f, rfl, hla, hacc, hlevel, hkind⟩)
  · exact .inr (.inl ⟨r, rfl⟩)

/-! ### The direction (R314) -/

theorem fetchLong_eq_ok {la : Word} {acc : Access} {level : Level} {a d : Word} {s t : State} :
    fetchLong la acc level a s = (.ok d, t) ↔ physRead .long a s = (.ok d, t) := by
  rw [fetchLong]
  rcases physRead .long a s with ⟨_ | _ | _, u⟩ <;> simp

/-- A descriptor that is read is the same for every access: only a fault record holds the access. -/
theorem fetchDesc_ok_of_other_access {la : Word} {acc : Access} (acc' : Access) {level : Level} {a : Word}
    {size : DescSize} {pos : DescPos} {s t : State} {d : Desc}
    (h : fetchDesc la acc level a size pos s = (.ok d, t)) : fetchDesc la acc' level a size pos s = (.ok d, t) := by
  cases size <;> simpa only [fetchDesc, andThen_eq_ok, fetchLong_eq_ok] using h

/-- A part of a walk that ends well reads of the access only its function code. -/
theorem WalkPart.ok_of_other_direction {la : Word} {n k : Nat} {f : Access → State → Ans α × State}
    (h : WalkPart la n k f) {acc : Access} (b : Bool) {s t : State} {r : α} (hr : f acc s = (.ok r, t)) :
    f { acc with write := b } s = (.ok r, t) := by
  induction h generalizing s t with
  | ok | logLimit => exact hr
  | fault | refuse => cases hr
  | fetch => exact fetchDesc_ok_of_other_access _ hr
  | seq _ _ ihf ihg =>
    obtain ⟨a, u, hfirst, hrest⟩ := andThen_eq_ok.mp hr
    exact andThen_eq_ok.mpr ⟨a, u, ihf hfirst, ihg a hrest⟩
  | choose v hv _ ih =>
    have hsame : v { acc with write := b } s = v acc s := hv.same rfl rfl ⟨rfl, rfl, rfl, rfl, rfl⟩
    dsimp only
    rw [hsame]
    exact ih (v acc s) hr

/-- Settles O43: WALK that ends well is a part of a walk that does. -/
theorem writeProtectIsNeverChecked : Obligations.WriteProtectIsNeverChecked := by
  intro acc b la s t r h hreply
  rcases exec_walk_cases acc la s with ⟨r', u, hwalk, hexec⟩ | ⟨f, u, hwalk, hexec⟩ | ⟨r', u, hwalk, hexec⟩ <;>
    rw [hexec] at h <;> cases h
  · have hwalk' := (walkCommand_walkPart la).ok_of_other_direction b hwalk
    rw [exec_eq_deliver, operation, hwalk']
    rfl
  · cases hreply
  · cases hreply

/-! ### Memory (R308, R316) -/

/-- Two states with the same physical memory but for the I/O slots, where a read answers by the histories and draws. -/
structure SameMemory (s t : State) : Prop where
  slots : t.slots = s.slots
  stores : t.stores = s.stores
  params : t.params = s.params
  bootOverlay : t.bootOverlay = s.bootOverlay
  diagPc : t.diagPc = s.diagPc

theorem FetchFrame.sameInputs {s t : State} (h : FetchFrame s t) : SameInputs s t :=
  ⟨by rw [h.regs], by rw [h.regs], by rw [h.regs], h.params, h.diagPc⟩

theorem FetchFrame.sameMemory {s t : State} (h : FetchFrame s t) : SameMemory s t :=
  ⟨h.slots, h.stores, h.params, h.bootOverlay, h.diagPc⟩

theorem SameInputs.symm {s t : State} (h : SameInputs s t) : SameInputs t s :=
  ⟨h.tc.symm, h.srp.symm, h.crp.symm, h.params.symm, h.diagPc.symm⟩

theorem SameInputs.trans {s t u : State} (h : SameInputs s t) (g : SameInputs t u) : SameInputs s u :=
  ⟨g.tc.trans h.tc, g.srp.trans h.srp, g.crp.trans h.crp, g.params.trans h.params, g.diagPc.trans h.diagPc⟩

theorem SameMemory.symm {s t : State} (h : SameMemory s t) : SameMemory t s :=
  ⟨h.slots.symm, h.stores.symm, h.params.symm, h.bootOverlay.symm, h.diagPc.symm⟩

theorem SameMemory.trans {s t u : State} (h : SameMemory s t) (g : SameMemory t u) : SameMemory s u :=
  ⟨g.slots.trans h.slots, g.stores.trans h.stores, g.params.trans h.params, g.bootOverlay.trans h.bootOverlay,
    g.diagPc.trans h.diagPc⟩

section
variable {w : Width} {s t : State} (h : SameMemory s t)
include h

theorem ramRead_fst_congr (b : Nat) (pa : Word) : (ramRead b w pa t).1 = (ramRead b w pa s).1 := by
  rw [ramRead, ramRead, h.params, h.stores]
  split <;> rfl

theorem romRead_fst_congr (pa : Word) : (romRead w pa t).1 = (romRead w pa s).1 := by
  rw [romRead, romRead, overlayRead, overlayRead, h.bootOverlay, h.params, h.slots, h.stores]
  split
  · split
    · exact ramRead_fst_congr h ..
    · rfl
  · rfl

/-- A physical read outside I/O answers by memory alone. -/
theorem physRead_fst_congr {pa : Word} (hio : bankAt s.slots (slotOf pa) ≠ .io) :
    (physRead w pa t).1 = (physRead w pa s).1 := by
  rw [physRead, physRead, h.slots]
  cases hbank : bankAt s.slots (slotOf pa) with
  | ram b => exact ramRead_fst_congr h ..
  | rom => exact romRead_fst_congr h ..
  | videoMono => simp only [bankRead, vmonoRead, h.stores, h.params]
  | videoColor => simp only [bankRead, vcolorRead, h.stores, h.params]
  | empty => cases w <;> simp only [bankRead, emptyRead, h.diagPc]
  | busErr => simp only [bankRead, h.diagPc]
  | io => exact absurd hbank hio

end

/-! ### Determinism (R316) -/

/-- Histories only grow, so that one that is the same at the end was the same between. -/
theorem FetchFrame.quiet {s t u : State} (h : FetchFrame s t) (g : FetchFrame t u)
    (hquiet : u.ioHistory = s.ioHistory) : t.ioHistory = s.ioHistory ∧ u.ioHistory = t.ioHistory := by
  obtain ⟨l, hl, -⟩ := h.io
  obtain ⟨l', hl', -⟩ := g.io
  obtain ⟨rfl, rfl⟩ : l = [] ∧ l' = [] := by
    rw [hl', hl, List.append_assoc] at hquiet
    simpa using hquiet
  exact ⟨by simpa using hl, by simpa using hl'⟩

/-- What two runs of a part of a walk agree on, from states with the same inputs and memory, if the first fetches no I/O
slot. -/
structure Repeats (s u : State) (x y : Ans α × State) : Prop where
  frame : FetchFrame s x.2
  frame' : FetchFrame u y.2
  quiet : x.2.ioHistory = s.ioHistory → y.1 = x.1 ∧ y.2.ioHistory = u.ioHistory

theorem Repeats.here {s u : State} (a : Ans α) : Repeats s u (a, s) (a, u) := ⟨.refl s, .refl u, fun _ => ⟨rfl, rfl⟩⟩

section
variable {s u : State} (hinputs : SameInputs s u) (hmemory : SameMemory s u)
include hinputs hmemory

theorem Repeats.andThen {x y : Ans α × State} {f g : α → State → Ans β × State} (h : Repeats s u x y)
    (hfg : ∀ a t v, SameInputs t v → SameMemory t v → Repeats t v (f a t) (g a v)) :
    Repeats s u (andThen x f) (andThen y g) := by
  obtain ⟨hframe, hframe', hsame⟩ := h
  have hrest := fun a => hfg a x.2 y.2 ((hframe.sameInputs.symm.trans hinputs).trans hframe'.sameInputs)
    ((hframe.sameMemory.symm.trans hmemory).trans hframe'.sameMemory)
  refine ⟨andThen_frame hframe fun a _ => (hrest a).frame, andThen_frame hframe' fun a _ => (hrest a).frame',
    fun hquiet => ?_⟩
  obtain ⟨answer, t⟩ := x
  obtain ⟨answer', v⟩ := y
  cases answer with
  | ok a =>
    obtain ⟨hfirst, hsecond⟩ := hframe.quiet (hrest a).frame hquiet
    obtain ⟨rfl, hv⟩ := hsame hfirst
    obtain ⟨hanswer, hio⟩ := (hrest a).quiet hsecond
    exact ⟨hanswer, hio.trans hv⟩
  | fault f => obtain ⟨rfl, hv⟩ := hsame hquiet; exact ⟨rfl, hv⟩
  | refuse r => obtain ⟨rfl, hv⟩ := hsame hquiet; exact ⟨rfl, hv⟩

theorem fetchLong_repeats (la : Word) (acc : Access) (level : Level) (a : Word) :
    Repeats s u (fetchLong la acc level a s) (fetchLong la acc level a u) where
  frame := fetchLong_frame ..
  frame' := fetchLong_frame ..
  quiet := by
    intro hquiet
    rw [fetchLong, mapFault_snd, physRead_state] at hquiet
    have hio : bankAt s.slots (slotOf a) ≠ .io := fun hio => by
      rw [if_pos hio] at hquiet
      simp [ioReadState] at hquiet
    have hstate : (physRead .long a u).2 = u := by rw [physRead_state, hmemory.slots, if_neg hio]
    refine ⟨?_, by rw [fetchLong, mapFault_snd, hstate]⟩
    have hanswer := physRead_fst_congr hmemory (w := .long) hio
    rw [fetchLong, fetchLong, hinputs.diagPc]
    generalize physRead .long a s = x, physRead .long a u = y at hanswer
    obtain ⟨_, t⟩ := x
    obtain ⟨answer, v⟩ := y
    obtain rfl := hanswer
    cases answer <;> rfl

theorem fetchDesc_repeats (la : Word) (acc : Access) (level : Level) (a : Word) (size : DescSize) (pos : DescPos) :
    Repeats s u (fetchDesc la acc level a size pos s) (fetchDesc la acc level a size pos u) := by
  refine (fetchLong_repeats hinputs hmemory ..).andThen hinputs hmemory fun d0 t v hi hm => ?_
  cases size with
  | four => exact .here _
  | eight => exact (fetchLong_repeats hi hm ..).andThen hi hm fun _ _ _ _ _ => .here _

end

theorem WalkPart.repeats {la : Word} {n k : Nat} {f : Access → State → Ans α × State} (h : WalkPart la n k f)
    (acc : Access) {s u : State} (hinputs : SameInputs s u) (hmemory : SameMemory s u) :
    Repeats s u (f acc s) (f acc u) := by
  induction h generalizing s u with
  | ok | refuse => exact .here _
  | fault kind level desc =>
    dsimp only
    rw [hinputs.diagPc]
    exact .here _
  | logLimit => exact ⟨limitLog_frame .., limitLog_frame .., fun _ => ⟨rfl, rfl⟩⟩
  | fetch => exact fetchDesc_repeats hinputs hmemory ..
  | seq _ _ ihf ihg => exact (ihf hinputs hmemory).andThen hinputs hmemory fun a _ _ => ihg a
  | choose v hv _ ih =>
    have hsame : v acc u = v acc s := hv.same rfl rfl hinputs
    dsimp only
    rw [hsame]
    exact ih (v acc s) hinputs hmemory

/-- Settles O42: the second run repeats the first, and both end by its answer. -/
theorem walkIsDeterministic : Obligations.WalkIsDeterministic := by
  intro acc la s₁ s₂ t₁ t₂ htc hsrp hcrp hparams hslots hstores hoverlay hpc h₁ h₂ hquiet
  obtain ⟨-, -, hsame⟩ := (walkCommand_walkPart la).repeats acc
    ⟨htc.symm, hsrp.symm, hcrp.symm, hparams.symm, hpc.symm⟩
    ⟨hslots.symm, hstores.symm, hparams.symm, hoverlay.symm, hpc.symm⟩
  rw [exec_eq_deliver, operation] at h₁ h₂
  generalize walkCommand acc la s₁ = x, walkCommand acc la s₂ = y at hsame h₁ h₂
  obtain ⟨answer, u⟩ := x
  obtain ⟨answer', v⟩ := y
  cases answer <;> cases h₁ <;> obtain ⟨rfl, hv⟩ := hsame hquiet <;> cases h₂ <;> exact ⟨rfl, hv⟩

end Sys2Proof.Machine
end

section
/-! PROOFS. A walk fetches at most six descriptors (R308, R312): how far the histories grow, and the addresses through
which alone the stores enter it. -/

namespace Sys2Proof.Machine

variable {α β : Type}

/-! ### How far the histories grow -/

/-- At most `i` more I/O events and draws, and at most `k` more log events. -/
structure GrowsBy (i k : Nat) (s t : State) : Prop where
  io : t.ioHistory.length ≤ s.ioHistory.length + i
  draws : t.draws ≤ s.draws + i
  log : t.diagLog.length ≤ s.diagLog.length + k

theorem GrowsBy.refl (i k : Nat) (s : State) : GrowsBy i k s s :=
  ⟨Nat.le_add_right .., Nat.le_add_right .., Nat.le_add_right ..⟩

theorem GrowsBy.trans {i i' k k' : Nat} {s t u : State} (h : GrowsBy i k s t) (g : GrowsBy i' k' t u) :
    GrowsBy (i' + i) (k' + k) s u := by
  obtain ⟨hio, hdraws, hlog⟩ := h
  obtain ⟨gio, gdraws, glog⟩ := g
  constructor <;> omega

theorem GrowsBy.andThen {i i' k k' : Nat} {s : State} {x : Ans α × State} {f : α → State → Ans β × State}
    (h : GrowsBy i k s x.2) (hf : ∀ a t, GrowsBy i' k' t (f a t).2) :
    GrowsBy (i' + i) (k' + k) s (andThen x f).2 := by
  obtain ⟨a | e | r, t⟩ := x
  · exact h.trans (hf a t)
  · exact h.trans (.refl i' k' t)
  · exact h.trans (.refl i' k' t)

theorem fetchLong_growsBy (la : Word) (acc : Access) (level : Level) (a : Word) (s : State) :
    GrowsBy 1 0 s (fetchLong la acc level a s).2 := by
  rw [fetchLong, mapFault_snd, physRead_state]
  split
  · exact ⟨by simp [ioReadState], Nat.le_refl _, Nat.le_refl _⟩
  · exact .refl 1 0 s

/-- A descriptor has at most two long words. -/
theorem fetchDesc_growsBy (la : Word) (acc : Access) (level : Level) (a : Word) (size : DescSize) (pos : DescPos)
    (s : State) : GrowsBy 2 0 s (fetchDesc la acc level a size pos s).2 := by
  refine (fetchLong_growsBy ..).andThen (i' := 1) (k' := 0) fun d0 t => ?_
  cases size with
  | four => exact .refl 1 0 t
  | eight => exact (fetchLong_growsBy ..).andThen (i' := 0) (k' := 0) fun _ _ => .refl ..

theorem WalkPart.growsBy {la : Word} {n k : Nat} {f : Access → State → Ans α × State} (h : WalkPart la n k f)
    (acc : Access) (s : State) : GrowsBy (2 * n) k s (f acc s).2 := by
  induction h generalizing s with
  | ok | fault | refuse => exact .refl ..
  | logLimit => exact ⟨Nat.le_add_right .., Nat.le_add_right .., by simp⟩
  | @fetch n k => exact (fetchDesc_growsBy ..).trans (.refl (2 * n) k _)
  | seq _ _ ihf ihg => exact Nat.mul_add .. ▸ (ihf s).andThen fun a t => ihg a t
  | choose v _ _ ih => exact ih (v acc s) s

/-! ### Other stores -/

/-- The same answer, in the same state but for the stores. -/
def putStores (m : Stores) (x : Ans α × State) : Ans α × State := (x.1, x.2.setStores m)

/-- With other stores in place of those of a state, both long words at each of some addresses read as they do in it. -/
def ReadsAlike (m : Stores) (s : State) (descs : List Word) : Prop :=
  ∀ a ∈ descs, (physRead .long a (s.setStores m)).1 = (physRead .long a s).1
    ∧ (physRead .long (a + 4) (s.setStores m)).1 = (physRead .long (a + 4) s).1

section
variable {m : Stores} {s t : State} {a : Word}

/-- The I/O collaborator sees no store (R238). -/
theorem ioRead_putStores (w : Width) (pa : Word) (m : Stores) (s : State) :
    ioRead w pa (s.setStores m) = putStores m (ioRead w pa s) := by
  have hanswer : ioReadAnswer w pa (s.setStores m) = ioReadAnswer w pa s := rfl
  rw [ioRead, ioRead, hanswer]
  split <;> rfl

theorem physRead_putStores (h : (physRead .long a (s.setStores m)).1 = (physRead .long a s).1) :
    physRead .long a (s.setStores m) = putStores m (physRead .long a s) := by
  refine Prod.ext h ?_
  rw [putStores, physRead_state, physRead_state, State.setStores_slots]
  split <;> rfl

/-- What reads alike at the start of a walk does so when the walk has come further: an I/O slot is no store, and any
other bank answers by memory alone. -/
theorem physRead_alike_of_frame (h : FetchFrame s t)
    (ha : (physRead .long a (s.setStores m)).1 = (physRead .long a s).1) :
    (physRead .long a (t.setStores m)).1 = (physRead .long a t).1 := by
  by_cases hio : bankAt s.slots (slotOf a) = .io
  · simp only [physRead, State.setStores_slots, h.slots, hio, bankRead, ioRead_putStores, putStores]
  · have hmemory : SameMemory (s.setStores m) (t.setStores m) := ⟨h.slots, rfl, h.params, h.bootOverlay, h.diagPc⟩
    rw [physRead_fst_congr hmemory hio, ha, physRead_fst_congr h.sameMemory hio]

theorem ReadsAlike.of_frame {descs : List Word} (h : FetchFrame s t) (hs : ReadsAlike m s descs) :
    ReadsAlike m t descs := fun a ha =>
  ⟨physRead_alike_of_frame h (hs a ha).1, physRead_alike_of_frame h (hs a ha).2⟩

theorem andThen_putStores {x y : Ans α × State} {f g : α → State → Ans β × State} (hx : y = putStores m x)
    (hf : ∀ a t, x = (.ok a, t) → g a (t.setStores m) = putStores m (f a t)) :
    andThen y g = putStores m (andThen x f) := by
  subst hx
  obtain ⟨a | e | r, t⟩ := x
  · exact hf a t rfl
  · rfl
  · rfl

theorem fetchLong_putStores (la : Word) (acc : Access) (level : Level)
    (h : (physRead .long a (s.setStores m)).1 = (physRead .long a s).1) :
    fetchLong la acc level a (s.setStores m) = putStores m (fetchLong la acc level a s) := by
  rw [fetchLong, fetchLong, physRead_putStores h]
  rcases physRead .long a s with ⟨_ | _ | _, t⟩ <;> rfl

theorem fetchDesc_putStores (la : Word) (acc : Access) (level : Level) (size : DescSize) (pos : DescPos)
    (h : ReadsAlike m s [a]) :
    fetchDesc la acc level a size pos (s.setStores m) = putStores m (fetchDesc la acc level a size pos s) := by
  obtain ⟨hfirst, hsecond⟩ := h a (List.mem_singleton_self a)
  refine andThen_putStores (fetchLong_putStores la acc level hfirst) fun d0 t ht => ?_
  have hframe : FetchFrame s t := by simpa only [ht] using fetchLong_frame la acc level a s
  cases size with
  | four => rfl
  | eight =>
    exact andThen_putStores (fetchLong_putStores la acc level (physRead_alike_of_frame hframe hsecond))
      fun _ _ _ => rfl

end

/-- The stores enter a part of a walk through the descriptors it fetches alone. -/
theorem WalkPart.putStores {la : Word} {n k : Nat} {f : Access → State → Ans α × State} (h : WalkPart la n k f)
    (acc : Access) (s : State) : ∃ descs : List Word, descs.length ≤ n
      ∧ ∀ m, ReadsAlike m s descs → f acc (s.setStores m) = putStores m (f acc s) := by
  induction h generalizing s with
  | ok | fault | refuse | logLimit => exact ⟨[], Nat.zero_le _, fun _ _ => rfl⟩
  | fetch level a size pos =>
    exact ⟨[a], Nat.le_add_left .., fun m hm => fetchDesc_putStores la acc level size pos hm⟩
  | @seq _ _ n n' _ _ f g hf _ ihf ihg =>
    obtain ⟨first, hlength, hfirst⟩ := ihf s
    by_cases hok : ∃ a t, f acc s = (.ok a, t)
    · obtain ⟨a, t, hx⟩ := hok
      have hframe : FetchFrame s t := by simpa only [hx] using hf.frame acc s
      obtain ⟨rest, hlength', hrest⟩ := ihg a t
      refine ⟨rest ++ first, List.length_append ▸ Nat.add_le_add hlength' hlength, fun m hm => ?_⟩
      obtain ⟨hmrest, hmfirst⟩ := List.forall_mem_append.mp hm
      refine andThen_putStores (hfirst m hmfirst) fun b u hu => ?_
      cases hx.symm.trans hu
      exact hrest m (ReadsAlike.of_frame hframe hmrest)
    · exact ⟨first, Nat.le_add_left_of_le hlength, fun m hm =>
        andThen_putStores (hfirst m hm) fun a t hx => absurd ⟨a, t, hx⟩ hok⟩
  | choose v hv _ ih =>
    obtain ⟨descs, hlength, h⟩ := ih (v acc s) s
    have hsame : ∀ m, v acc (s.setStores m) = v acc s := fun m => hv.same rfl rfl ⟨rfl, rfl, rfl, rfl, rfl⟩
    refine ⟨descs, hlength, fun m hm => ?_⟩
    dsimp only
    rw [hsame]
    exact h m hm

/-- The end of an operation reads no store. -/
theorem deliver_putStores {c : FaultRecord → Option Word} {x : Ans Result × State} {t : State}
    (h : deliver c x = .next t) (m : Stores) : deliver c (putStores m x) = .next (t.setStores m) := by
  obtain ⟨_ | _ | _, u⟩ := x <;> cases h <;> rfl

/-- The end of an operation adds at most one event to the log, and nothing else to the histories. -/
theorem deliver_growsBy {c : FaultRecord → Option Word} {x : Ans Result × State} {t : State}
    (h : deliver c x = .next t) : GrowsBy 0 1 x.2 t := by
  obtain ⟨_ | _ | _, u⟩ := x <;> cases h
  · exact ⟨le_rfl, le_rfl, Nat.le_succ _⟩
  · exact ⟨le_rfl, le_rfl, by simp⟩
  · exact ⟨le_rfl, le_rfl, Nat.le_succ _⟩

/-- Settles O41: WALK is a part of a walk with six descriptors and five limit events; its end logs one event more. -/
theorem walkFetchesAreBounded : Obligations.WalkFetchesAreBounded := by
  intro acc la s t h
  rw [exec_eq_deliver, operation] at h
  have hpart := walkCommand_walkPart la
  obtain ⟨hio, hdraws, hlog⟩ := (hpart.growsBy acc s).trans (deliver_growsBy h)
  obtain ⟨descs, hlength, hstores⟩ := hpart.putStores acc s
  refine ⟨by omega, by omega, by omega, descs, hlength, fun m hm => ?_⟩
  rw [exec_eq_deliver, operation]
  exact (congrArg _ (hstores m hm)).trans (deliver_putStores h m)

end Sys2Proof.Machine
end

section
/-! PROOFS. The transparent windows: what one window answers, from the bits of its raw register (R342, R343, R345,
R346), and how their results decide a translation before the rest of it is looked at (R344, R347 to R349). -/

namespace Sys2Proof.Machine

/-! ### Which accesses a window covers (R342, R343) -/

/-- A masked comparison compares the bits that the mask has. -/
theorem xor_and_eq_zero_iff {w : Nat} (x y m : BitVec w) :
    (x ^^^ y) &&& m = 0 ↔ ∀ k < w, m.getLsbD k = true → x.getLsbD k = y.getLsbD k := by
  rw [BitVec.eq_of_getLsbD_eq_iff]
  refine forall₂_congr fun k _ => ?_
  cases hm : m.getLsbD k <;> simp [hm]

theorem getLsbD_0xFF000000 {k : Nat} (hk : k < 32) : (0xFF000000 : Word).getLsbD k = decide (24 ≤ k) := by
  have hmask : (0xFF000000 : Word) = BitVec.allOnes 32 <<< 24 := rfl
  rw [hmask, BitVec.getLsbD_shiftLeft, BitVec.getLsbD_allOnes, decide_eq_true hk,
    decide_eq_true (Nat.lt_of_le_of_lt (Nat.sub_le k 24) hk), Bool.true_and, Bool.and_true, ← decide_not]
  exact decide_eq_decide.mpr Nat.not_lt

theorem decodeTt_addrBase_getLsbD (raw : Word) {k : Nat} (hk : k < 32) :
    (decodeTt raw).addrBase.getLsbD k = (decide (24 ≤ k) && raw.getLsbD k) := by
  refine (BitVec.getLsbD_and ..).trans ?_
  rw [getLsbD_0xFF000000 hk, Bool.and_comm]

/-- The mask byte, bits 23:16, moves up to the compared byte of an address and is inverted there. -/
theorem decodeTt_addrMask_getLsbD (raw : Word) {k : Nat} (hk : k < 32) :
    (decodeTt raw).addrMask.getLsbD k = (decide (24 ≤ k) && !raw.getLsbD (k - 8)) := by
  refine (BitVec.getLsbD_and ..).trans ?_
  rw [getLsbD_0xFF000000 hk, BitVec.getLsbD_not, BitVec.getLsbD_shiftLeft, Bool.and_comm]
  by_cases hbyte : 24 ≤ k
  · simp [hk, hbyte, show ¬ k < 8 by omega]
  · simp [hbyte]

/-- The address test: every bit of the top byte that LAM does not ignore is LAB's. -/
theorem addressCompared_iff (raw la : Word) :
    (la ^^^ (decodeTt raw).addrBase) &&& (decodeTt raw).addrMask = 0 ↔
      ∀ k < 8, raw.getLsbD (16 + k) = false → la.getLsbD (24 + k) = raw.getLsbD (24 + k) := by
  rw [xor_and_eq_zero_iff]
  constructor
  · intro h k hk hraw
    have hbit := h (24 + k) (by omega)
    rw [decodeTt_addrMask_getLsbD raw (by omega), decodeTt_addrBase_getLsbD raw (by omega),
      show 24 + k - 8 = 16 + k by omega, hraw] at hbit
    simpa using hbit
  · intro h k hk hmask
    rw [decodeTt_addrMask_getLsbD raw hk, Bool.and_eq_true, decide_eq_true_iff, Bool.not_eq_true'] at hmask
    obtain ⟨hbyte, hraw⟩ := hmask
    obtain ⟨j, rfl⟩ := Nat.exists_eq_add_of_le hbyte
    rw [show 24 + j - 8 = 16 + j by omega] at hraw
    rw [decodeTt_addrBase_getLsbD raw hk, h j (by omega) hraw]
    simp

/-- The function-code test: every bit that FCM does not ignore is FCB's. -/
theorem functionCodeCompared_iff (raw : Word) (fc : BitVec 3) :
    (fc ^^^ (decodeTt raw).fcBase) &&& (decodeTt raw).fcMask = 0 ↔
      ∀ k < 3, raw.getLsbD k = false → fc.getLsbD k = raw.getLsbD (4 + k) := by
  rw [xor_and_eq_zero_iff]
  refine forall₂_congr fun k hk => ?_
  have hmask : (decodeTt raw).fcMask.getLsbD k = !raw.getLsbD k := by simp [decodeTt, hk]
  have hbase : (decodeTt raw).fcBase.getLsbD k = raw.getLsbD (4 + k) := by simp [decodeTt, hk]
  rw [hmask, hbase, Bool.not_eq_true']

/-- The raw bits cover an access exactly where the decoded window passes the three tests of R342. -/
theorem windowCovers_iff (p : Params) (raw la : Word) (acc : Access) : WindowCovers p raw la acc ↔
    (decodeTt raw).enabled = true ∧ (la ^^^ (decodeTt raw).addrBase) &&& (decodeTt raw).addrMask = 0
      ∧ (p.ttFcFilter = true → (functionCode acc ^^^ (decodeTt raw).fcBase) &&& (decodeTt raw).fcMask = 0) := by
  rw [addressCompared_iff, functionCodeCompared_iff]
  rfl

theorem windowDirected_iff (p : Params) (raw : Word) :
    WindowDirected p raw ↔ directionChecked p (decodeTt raw) = true := by
  unfold WindowDirected directionChecked
  cases p.ttRwmSense <;> simp [decodeTt]

/-! ### The result of one window -/

section
variable {p : Params} {raw la : Word} {acc : Access}

theorem ttMatch_of_not_covers (h : ¬ WindowCovers p raw la acc) : ttMatch p (decodeTt raw) la acc = .noMatch := by
  rw [windowCovers_iff, not_and_or, not_and_or] at h
  rcases h with henabled | haddress | hfunction
  · rw [ttMatch, if_pos (Bool.eq_false_of_not_eq_true henabled)]
  · rw [ttMatch, if_pos haddress, ite_self]
  · rw [ttMatch, if_pos (Classical.not_imp.mp hfunction), ite_self, ite_self]

/-- Past the three tests the direction decides: a checked window refuses the direction that its R/W bit states. -/
theorem ttMatch_of_covers (h : WindowCovers p raw la acc) : ttMatch p (decodeTt raw) la acc =
    if directionChecked p (decodeTt raw) = true ∧ raw.getLsbD 9 = acc.write then
      if acc.write then .noWrite else .noRead
    else .okMatch := by
  obtain ⟨henabled, haddress, hfunction⟩ := (windowCovers_iff p raw la acc).mp h
  have hrw : (decodeTt raw).rw = raw.getLsbD 9 := rfl
  simp only [ttMatch, henabled, haddress, hrw, ne_eq, not_true_eq_false, Bool.true_eq_false, if_false]
  rw [if_neg fun ⟨hfilter, hdiffer⟩ => hdiffer (hfunction hfilter)]
  cases directionChecked p (decodeTt raw) with
  | false => rfl
  | true =>
    cases acc.write with
    | false | true => cases raw.getLsbD 9 <;> rfl

/-- The code that the matcher's result has is the one that the raw bits give. -/
theorem windowCode_ttMatch (p : Params) (raw la : Word) (acc : Access) :
    WindowCode p raw la acc (ttResultCode (ttMatch p (decodeTt raw) la acc)) := by
  by_cases hcovers : WindowCovers p raw la acc
  · refine .inr ⟨hcovers, ?_⟩
    rw [ttMatch_of_covers hcovers]
    have hdirected := windowDirected_iff p raw
    by_cases hrefused : directionChecked p (decodeTt raw) = true ∧ raw.getLsbD 9 = acc.write
    · rw [if_pos hrefused]
      obtain ⟨hchecked, hrw⟩ := hrefused
      cases hwrite : acc.write with
      | false => exact .inr (.inl ⟨rfl, hdirected.mpr hchecked, hrw.trans hwrite, rfl⟩)
      | true => exact .inr (.inr ⟨rfl, hdirected.mpr hchecked, hrw.trans hwrite, rfl⟩)
    · rw [if_neg hrefused]
      exact .inl ⟨rfl, fun hd hrw => hrefused ⟨hdirected.mp hd, hrw⟩⟩
  · exact .inl ⟨by rw [ttMatch_of_not_covers hcovers]; rfl, hcovers⟩

end

/-- Settles O23: the window is the decode of its raw register, so its result's code is that of the raw bits. -/
theorem windowMatchFromRawBits : Obligations.WindowMatchFromRawBits := by
  intro acc la s
  refine ⟨decodeReadsBackEncode (.tt0Match acc la) rfl, decodeReadsBackEncode (.tt1Match acc la) rfl,
    fun hdecoded => ⟨_, hdecoded ▸ windowCode_ttMatch s.params s.regs.tt0Raw la acc, ?_⟩,
    fun hdecoded => ⟨_, hdecoded ▸ windowCode_ttMatch s.params s.regs.tt1Raw la acc, ?_⟩⟩
  · exact exec_eq_deliver (.tt0Match acc la) s
  · exact exec_eq_deliver (.tt1Match acc la) s

/-! ### The windows before the rest of a translation (R344, R347) -/

section
variable {la : Word} {acc : Access} {s : State}

theorem ttResolve_of_tt0 {r : TtResult} (h : ttMatch s.params s.regs.tt0 la acc = r) (hr : r ≠ .noMatch) :
    ttResolve la acc s = ttOutcome 0 .tt0 s.regs.tt0 la acc s.diagPc r := by
  rw [ttResolve, h]
  cases r with
  | noMatch => exact absurd rfl hr
  | okMatch | noRead | noWrite => rfl

theorem ttResolve_of_tt1 {r : TtResult} (h0 : ttMatch s.params s.regs.tt0 la acc = .noMatch)
    (h1 : ttMatch s.params s.regs.tt1 la acc = r) :
    ttResolve la acc s = ttOutcome 1 .tt1 s.regs.tt1 la acc s.diagPc r := by
  rw [ttResolve, h0, h1]
  rfl

/-- A direction result is a violation that records the window's number and the result (R347). -/
theorem ttOutcome_of_direction {r : TtResult} (hr : r = .noRead ∨ r = .noWrite) (n : Fin 2) (via : Via)
    (tt : TtDecoded) :
    ttOutcome n via tt la acc s.diagPc r = .violation (directionRecord s la acc n r) := by
  obtain rfl | rfl := hr <;> rfl

/-- A window's translation is answered with no walk and no insertion (R348, R349). -/
theorem exec_translate_of_hit {t : Translation} (h : ttResolve la acc s = .hit t) :
    exec (.translate acc la) s = .next (answered s (.translation t)) := by
  have hlocate : locate la acc s = (.ok t, s) := by rw [locate, h]
  have hvia : t.via ≠ .walk := by
    rcases ttResolve_hit_via h with hv | hv <;> simp [hv]
  rw [exec_eq_deliver, operation, translate_of_locate hlocate, fillAtc, if_neg hvia]
  rfl

/-- A direction violation is the fault of the translation (R347, R348). -/
theorem exec_translate_of_violation {f : FaultRecord} (h : ttResolve la acc s = .violation f) :
    exec (.translate acc la) s = .next (faulted s f none) := by
  have hlocate : locate la acc s = (.fault f, s) := by rw [locate, h]
  rw [exec_eq_deliver, operation, translate, hlocate]
  rfl

end

/-- Settles O24: the window that decides resolves the address, and a translation answers or faults as it resolves. -/
theorem windowsComeFirst : Obligations.WindowsComeFirst := by
  intro acc la s
  refine ⟨fun h => ?_, fun r hr h => ?_, fun h0 h1 => ?_, fun r hr h0 h1 => ?_⟩
  · exact exec_translate_of_hit (ttResolve_of_tt0 h nofun)
  · have hne : r ≠ .noMatch := by obtain rfl | rfl := hr <;> nofun
    exact exec_translate_of_violation ((ttResolve_of_tt0 h hne).trans (ttOutcome_of_direction hr ..))
  · exact exec_translate_of_hit (ttResolve_of_tt1 h0 h1)
  · exact exec_translate_of_violation ((ttResolve_of_tt1 h0 h1).trans (ttOutcome_of_direction hr ..))

end Sys2Proof.Machine
end

section
/-! PROOFS. What a command that is no flush, reset or restore can write of the ATC (R42, R370, R381): nothing, or, where
it may insert, the one valid entry of an insertion. -/

namespace Sys2Proof.Machine

/-- The ATC and `atc_next` are as they were. -/
structure AtcKept (s t : State) : Prop where
  atc : t.atc = s.atc
  atcNext : t.atcNext = s.atcNext

/-- At most one entry of the ATC is written, and that one is valid. -/
inductive AtcFilled (s t : State) : Prop
  | kept (h : AtcKept s t)
  | inserted (k : Nat) (e : AtcEntry) (hvalid : e.valid = true) (h : t.atc = s.atc.set k e)

theorem AtcKept.refl (s : State) : AtcKept s s := ⟨rfl, rfl⟩

theorem AtcKept.trans {s t u : State} (h : AtcKept s t) (g : AtcKept t u) : AtcKept s u :=
  ⟨g.atc.trans h.atc, g.atcNext.trans h.atcNext⟩

theorem AtcKept.filled {s t u : State} (h : AtcKept s t) (g : AtcFilled t u) : AtcFilled s u := by
  cases g with
  | kept g => exact .kept (h.trans g)
  | inserted k e hvalid g => exact .inserted k e hvalid (h.atc ▸ g)

theorem AtcFilled.of_kept {s t u : State} (h : AtcFilled s t) (g : AtcKept t u) : AtcFilled s u := by
  cases h with
  | kept h => exact .kept (h.trans g)
  | inserted k e hvalid h => exact .inserted k e hvalid (g.atc.trans h)

theorem FetchFrame.atcKept {s t : State} (h : FetchFrame s t) : AtcKept s t := ⟨h.atc, h.atcNext⟩

theorem exec_atcKept {i : Instr} {s t : State} (h : exec i s = .next t) : AtcKept (operation i s).2 t := by
  obtain ⟨-, hatc, hatcNext, -⟩ := deliver_next (exec_eq_deliver i s ▸ h)
  exact ⟨hatc, hatcNext⟩

/-! ### Parts of operations that keep the ATC -/

theorem physRead_atcKept (w : Width) (pa : Word) (s : State) : AtcKept s (physRead w pa s).2 where
  atc := physRead_atc w pa s
  atcNext := by rw [physRead_state]; split <;> rfl

theorem physWrite_atcKept (w : Width) (pa v : Word) (s : State) : AtcKept s (physWrite w pa v s).2 where
  atc := physWrite_atc w pa v s
  atcNext := by rcases physWrite_state w pa v s with ⟨m, -, h⟩ | h | h <;> rw [h] <;> rfl

theorem logTcWrite_atcKept (s : State) (v : Word) : AtcKept s (logTcWrite s v) where
  atc := logTcWrite_atc s v
  atcNext := by unfold logTcWrite; split <;> rfl

theorem mapRange_atcKept (bank : BankRef) (start count : Word) (s : State) :
    AtcKept s (mapRange bank start count s).2 where
  atc := mapRange_atc bank start count s
  atcNext := by
    unfold mapRange
    split
    · rfl
    · split <;> rfl

/-! ### Parts of operations that may insert -/

@[simp] theorem atcVictim_atc (s : State) : (atcVictim s).2.atc = s.atc := by
  rcases atcVictim_state s with h | h | h <;> rw [h] <;> rfl

theorem atcInsert_filled (la : Word) (fc : BitVec 3) (pa : Word) (ci wp m : Bool) (s : State) :
    AtcFilled s (atcInsert la fc pa ci wp m s) := by
  rcases atcInsert_state la fc pa ci wp m s with ⟨-, h⟩ | ⟨-, h⟩ <;> rw [h]
  · exact .kept (.refl s)
  · exact .inserted _ (newEntry s.regs.tc.pageMask la fc pa ci wp m) rfl (by rw [State.setAtc_atc, atcVictim_atc])

theorem insertCommand_filled (sup dat ci wp m : Bool) (la pa : Word) (s : State) :
    AtcFilled s (insertCommand sup dat ci wp m la pa s).2 := by
  unfold insertCommand
  split
  · exact .kept (.refl s)
  · exact atcInsert_filled ..

theorem translate_filled (la : Word) (acc : Access) (s : State) : AtcFilled s (translate la acc s).2 := by
  have hwalk := (walk_frame la acc s).atcKept
  rcases translate_state la acc s with h | h | ⟨r, -, h⟩ <;> rw [h]
  · exact .kept (.refl s)
  · exact .kept hwalk
  · exact hwalk.filled (atcInsert_filled ..)

theorem logicalRead_filled (w : Width) (la : Word) (acc : Access) (s : State) :
    AtcFilled s (logicalRead w la acc s).2 := by
  have htranslate := translate_filled la acc s
  rcases logicalRead_state w la acc s with h | h | h | ⟨pa, h⟩ <;> rw [h]
  · exact .kept (.refl s)
  · exact .kept (locate_frame la acc s).atcKept
  · exact htranslate
  · exact htranslate.of_kept ⟨rfl, rfl⟩

theorem logicalWrite_filled (w : Width) (la : Word) (acc : Access) (v : Word) (s : State) :
    AtcFilled s (logicalWrite w la acc v s).2 := by
  rcases logicalWrite_state w la acc v s with h | h | ⟨r, u, htranslate, h⟩ <;> rw [h]
  · exact .kept (.refl s)
  · exact .kept (locate_frame la acc s).atcKept
  · have hu := translate_filled la acc s
    rw [htranslate] at hu
    exact hu.of_kept (physWrite_atcKept w r.pa v u)

/-! ### Every operation -/

theorem operation_atcKept {i : Instr} (s : State) (hflush : isFlush i = false) (hset : setsAllRegisters i = false)
    (hinsert : mayInsert i = false) : AtcKept s (operation i s).2 := by
  cases i with
  | translate | atcInsert | lread8 | lread16 | lread32 | lwrite8 | lwrite16 | lwrite32 => cases hinsert
  | flushAll | flushFc | flushPage => cases hflush
  | snapRestore | mmuReset | coldReset => cases hset
  | wrTc v =>
    have hregs : AtcKept s (s.setRegs { s.regs with tcRaw := v, tc := decodeTc v }) := ⟨rfl, rfl⟩
    exact hregs.trans (logTcWrite_atcKept _ v)
  | walk acc la => exact (walkCommand_frame acc la s).atcKept
  | atcLookup acc la => rw [operation, lookupCommand_snd]; exact .refl s
  | map bank start count => exact mapRange_atcKept bank start count s
  | pread8 | pread16 | pread32 => rw [operation, mapAns_snd]; exact physRead_atcKept ..
  | pwrite8 | pwrite16 | pwrite32 => rw [operation, physStore, mapAns_snd]; exact physWrite_atcKept ..
  | toHost pa => rw [operation, mapAns_snd]; exact .refl s
  | wrSrp | wrCrp | wrTt0 | wrTt1 | wrMmusr | rdTc | rdSrp | rdCrp | rdTt0 | rdTt1 | rdMmusr | tt0Match | tt1Match
  | boundsCheck | regionName | queryDecoded | snapSave => exact ⟨rfl, rfl⟩

theorem operation_filled {i : Instr} (s : State) (hinsert : mayInsert i = true) : AtcFilled s (operation i s).2 := by
  cases i with
  | translate acc la => rw [operation, mapAns_snd]; exact translate_filled la acc s
  | atcInsert => exact insertCommand_filled ..
  | lread8 | lread16 | lread32 => rw [operation, mapAns_snd]; exact logicalRead_filled ..
  | lwrite8 | lwrite16 | lwrite32 => exact logicalWrite_filled ..
  | _ => cases hinsert

/-- Settles O15: a command that may not insert keeps the ATC, and one that may fills at most one entry. -/
theorem onlyAtcOperationsChangeTheAtc : Obligations.OnlyAtcOperationsChangeTheAtc := by
  intro i s t h hflush hset
  have hkept : mayInsert i = false → AtcKept s t := fun hinsert =>
    (operation_atcKept s hflush hset hinsert).trans (exec_atcKept h)
  refine ⟨fun hinsert => ⟨(hkept hinsert).atc, (hkept hinsert).atcNext⟩, ?_⟩
  have hfilled : AtcFilled s t := by
    cases hinsert : mayInsert i with
    | false => exact .kept (hkept hinsert)
    | true => exact (operation_filled s hinsert).of_kept (exec_atcKept h)
  cases hfilled with
  | kept hk => exact .inl ⟨hk.atc, hk.atcNext⟩
  | inserted k e hvalid hatc => exact .inr ⟨k, e, hvalid, hatc⟩

end Sys2Proof.Machine
end

section
/-! PROOFS. The ATC commands (R371 to R379): which entries a flush clears, which entry a lookup answers, which index an
insertion fills, each tied to the statement's reading of the rule. -/

namespace Sys2Proof.Machine

/-- The model's test of an entry is R371's. -/
theorem entryCovers_iff (pageMask : Word) (fc : BitVec 3) (la : Word) (e : AtcEntry) :
    entryCovers pageMask fc la e = true ↔ AtcHits pageMask fc la e := by
  simp only [entryCovers, Bool.and_eq_true, decide_eq_true_eq, AtcHits, and_assoc]

theorem entryCovers_eq_false_iff (pageMask : Word) (fc : BitVec 3) (la : Word) (e : AtcEntry) :
    entryCovers pageMask fc la e = false ↔ ¬ AtcHits pageMask fc la e := by
  rw [← entryCovers_iff, Bool.not_eq_true]

/-- A search answers the first position that passes, given by what stands at the positions before it. -/
theorem findIdx?_of_first {α : Type} {l : List α} {p : α → Bool} {k : Nat} {x : α} (hk : l[k]? = some x)
    (hx : p x = true) (hfirst : ∀ j < k, ∀ y, l[j]? = some y → p y = false) : l.findIdx? p = some k := by
  obtain ⟨hlt, rfl⟩ := List.getElem?_eq_some_iff.mp hk
  refine List.findIdx?_eq_some_iff_getElem.mpr ⟨hlt, hx, fun j hj => ?_⟩
  rw [hfirst j hj _ (List.getElem?_eq_getElem (hj.trans hlt))]
  nofun

/-! ### Flushes (R375 to R377) -/

theorem atcFlush_getElem? (pick : AtcEntry → Bool) (s : State) (k : Nat) :
    (atcFlush pick s).atc[k]? = s.atc[k]?.map fun e => if pick e then { e with valid := false } else e := by
  rw [atcFlush_atc, List.getElem?_map]

/-- A command that flushes by a test clears exactly the entries that pass it. -/
theorem flushClears_of_operation {s : State} {i : Instr} {test : AtcEntry → Bool} {pick : AtcEntry → Prop}
    (hi : operation i s = (.ok .unit, atcFlush test s)) (hpick : ∀ e, test e = true ↔ pick e) :
    FlushClears s i pick := by
  refine ⟨(atcFlush test s).atc, by rw [exec_eq_deliver, hi]; rfl, List.length_map _, fun k e hk => ?_⟩
  rw [atcFlush_getElem?, hk, Option.map_some]
  constructor
  · intro he
    rw [if_pos ((hpick e).mpr he)]
  · intro he
    rw [if_neg (mt (hpick e).mp he)]

/-- Settles O16: each flush command flushes by a test that says what its rule picks. -/
theorem flushesClearExactlyTheirEntries : Obligations.FlushesClearExactlyTheirEntries := by
  intro s f la
  refine ⟨decodeReadsBackEncode .flushAll rfl, ?_, ?_, flushClears_of_operation rfl fun e => ?_,
    flushClears_of_operation rfl fun e => ?_, flushClears_of_operation rfl fun e => ?_⟩
  · rw [Nat.mul_comm]
    exact decodeReadsBackEncode (.flushFc f) rfl
  · rw [Nat.mul_comm]
    exact decodeReadsBackEncode (.flushPage f la) rfl
  · exact iff_of_true rfl trivial
  · simp only [Bool.and_eq_true, decide_eq_true_eq]
  · exact entryCovers_iff s.regs.tc.pageMask f la e

/-! ### The lookup (R371, R378) -/

section
variable {la : Word} {acc : Access} {s : State}

theorem atcFind_of_lowestHit {k : Nat} {e : AtcEntry} (h : LowestHit s (functionCode acc) la k e) :
    atcFind la acc s = some k := by
  obtain ⟨hmode, hk, he, hlower⟩ := h
  simp only [atcFind, hmode]
  exact findIdx?_of_first hk ((entryCovers_iff ..).mpr he) fun j hj y hy =>
    (entryCovers_eq_false_iff ..).mpr (hlower j hj y hy)

theorem atcFind_eq_none_iff : atcFind la acc s = none ↔ NoHit s (functionCode acc) la := by
  unfold atcFind NoHit
  cases s.params.atcMode with
  | alwaysMiss => simp
  | normal => simp [List.findIdx?_eq_none_iff, entryCovers_eq_false_iff]

theorem atcEntryAt_of_getElem? {k : Nat} {e : AtcEntry} (h : s.atc[k]? = some e) : atcEntryAt s k = e := by
  rw [atcEntryAt, List.getD_eq_getElem?_getD, h]; rfl

theorem exec_atcLookup_refused (h : s.regs.tc.tcUnmodelled = true) :
    exec (.atcLookup acc la) s = .next (refusedWith s .tcUnmodelled) := by
  rw [exec_eq_deliver, operation, lookupCommand, if_pos h]
  rfl

theorem exec_atcLookup_hit {k : Nat} (hmodelled : s.regs.tc.tcUnmodelled = false) (hfind : atcFind la acc s = some k) :
    exec (.atcLookup acc la) s = .next (answered s (.atcHit
      { index := k, pa := (atcCompose s k la).pa, ci := (atcCompose s k la).ci, wp := (atcCompose s k la).wp
        m := (atcCompose s k la).m })) := by
  have hcommand : lookupCommand acc la s = (.ok (lookupResult la acc s), s) := by
    simp [lookupCommand, hmodelled]
  rw [exec_eq_deliver, operation, hcommand, lookupResult, hfind]
  rfl

end

theorem functionCode_toNat (acc : Access) :
    (functionCode acc).toNat = (if acc.supervisor then 4 else 0) + (if acc.data then 1 else 2) := by
  obtain ⟨sup, dat, write⟩ := acc
  revert sup dat write
  decide

/-- Settles O18: the search of the model is for the lowest hit, and the command answers by it. -/
theorem atcLookupAnswersLowestHit : Obligations.AtcLookupAnswersLowestHit := by
  intro acc la s
  refine ⟨decodeReadsBackEncode (.atcLookup acc la) rfl, exec_atcLookup_refused, fun hmodelled hmiss => ?_,
    fun hmodelled k e hlowest => ?_, functionCode_toNat acc⟩
  · exact exec_atcLookup_miss hmodelled (atcFind_eq_none_iff.mpr hmiss)
  · rw [exec_atcLookup_hit hmodelled (atcFind_of_lowestHit hlowest)]
    obtain ⟨-, hk, -⟩ := hlowest
    rw [atcCompose, atcEntryAt_of_getElem? hk]
    rfl

/-! ### The victim (R373) -/

section
variable {s : State}

theorem atcVictim_of_free {k : Nat} {x : AtcEntry} (hk : s.atc[k]? = some x) (hx : x.valid = false)
    (hlower : ∀ j < k, ∀ y, s.atc[j]? = some y → y.valid = true) : atcVictim s = (k, s) := by
  have hfind : s.atc.findIdx? (fun e => !e.valid) = some k :=
    findIdx?_of_first hk (by rw [hx]; rfl) fun j hj y hy => by rw [hlower j hj y hy]; rfl
  rw [atcVictim, hfind]

theorem findIdx?_free_eq_none (hfull : ∀ x ∈ s.atc, x.valid = true) :
    s.atc.findIdx? (fun e => !e.valid) = none :=
  List.findIdx?_eq_none_iff.mpr fun x hx => by rw [hfull x hx]; rfl

theorem atcVictim_of_fifo (hfull : ∀ x ∈ s.atc, x.valid = true) (hpolicy : s.params.atcVictim = .fifo) :
    atcVictim s = (s.atcNext.val, s.setAtcNext (s.atcNext + 1)) := by
  rw [atcVictim, findIdx?_free_eq_none hfull, hpolicy]

theorem atcVictim_of_draw (hfull : ∀ x ∈ s.atc, x.valid = true) (hpolicy : s.params.atcVictim = .draw) :
    atcVictim s = ((Config.drawVictim s.draws).val, s.takeDraws 1) := by
  rw [atcVictim, findIdx?_free_eq_none hfull, hpolicy]

end

/-! ### The insertion (R372, R379) -/

section
variable (sup dat ci wp m : Bool) (la pa : Word) {s : State}

theorem exec_atcInsert_refused (h : s.regs.tc.tcUnmodelled = true) :
    exec (.atcInsert sup dat ci wp m la pa) s = .next (refusedWith s .tcUnmodelled) := by
  rw [exec_eq_deliver, operation, insertCommand, if_pos h]
  rfl

theorem exec_atcInsert_of_modelled (h : s.regs.tc.tcUnmodelled = false) :
    exec (.atcInsert sup dat ci wp m la pa) s
      = .next (answered (atcInsert la (functionCodeOf sup dat) pa ci wp m s) .unit) := by
  have hcommand : insertCommand sup dat ci wp m la pa s
      = (.ok .unit, atcInsert la (functionCodeOf sup dat) pa ci wp m s) := by
    simp [insertCommand, h]
  rw [exec_eq_deliver, operation, hcommand]
  rfl

end

section
variable (la : Word) (fc : BitVec 3) (pa : Word) (ci wp m : Bool) {s : State}

theorem atcInsert_alwaysMiss (hmode : s.params.atcMode = .alwaysMiss) : atcInsert la fc pa ci wp m s = s := by
  rw [atcInsert, hmode]

/-- The new entry stands at the victim's index, in the state that choosing the victim left. -/
theorem atcInsert_of_victim {k : Nat} {u : State} (hmode : s.params.atcMode = .normal)
    (hvictim : atcVictim s = (k, u)) : atcInsert la fc pa ci wp m s
      = u.setAtc (s.atc.set k (newEntry s.regs.tc.pageMask la fc pa ci wp m)) := by
  have hatc : u.atc = s.atc := by
    have h := atcVictim_atc s
    rwa [hvictim] at h
  rw [atcInsert, hmode, hvictim, ← hatc]

theorem atcInsert_atc (hmode : s.params.atcMode = .normal) : (atcInsert la fc pa ci wp m s).atc
    = s.atc.set (atcVictim s).1 (newEntry s.regs.tc.pageMask la fc pa ci wp m) := by
  rw [atcInsert_of_victim la fc pa ci wp m hmode (Prod.mk.eta (p := atcVictim s)).symm, State.setAtc_atc]

end

/-- Settles O19: the command inserts at the victim's index, which is the one that R373 names in each case. -/
theorem atcInsertFillsTheVictim : Obligations.AtcInsertFillsTheVictim := by
  rintro sup dat ci wp m la pa s e - rfl
  refine ⟨decodeReadsBackEncode (.atcInsert sup dat ci wp m la pa) rfl, exec_atcInsert_refused sup dat ci wp m la pa,
    fun hmodelled hmode => ?_, fun hmodelled hmode => ?_⟩
  · rw [exec_atcInsert_of_modelled sup dat ci wp m la pa hmodelled, atcInsert_alwaysMiss _ _ _ _ _ _ hmode]
  · rw [exec_atcInsert_of_modelled sup dat ci wp m la pa hmodelled]
    refine ⟨fun k x hk hx hlower => ?_, fun hfull hpolicy => ?_, fun hfull hpolicy => ?_⟩
    · rw [atcInsert_of_victim _ _ _ _ _ _ hmode (atcVictim_of_free hk hx hlower)]
      rfl
    · refine ⟨s.atcNext + 1, Fin.val_add .., ?_⟩
      rw [atcInsert_of_victim _ _ _ _ _ _ hmode (atcVictim_of_fifo hfull hpolicy)]
      rfl
    · refine ⟨Config.drawVictim s.draws, ?_⟩
      rw [atcInsert_of_victim _ _ _ _ _ _ hmode (atcVictim_of_draw hfull hpolicy)]
      rfl

end Sys2Proof.Machine
end

section
/-! PROOFS. A translation by a walk fills the ATC, so that the next translation of its page hits there (R371, R372,
R380, R401): the walk was made because no entry hit, so the inserted entry is the lowest that does. -/

namespace Sys2Proof.Machine

/-! ### Lookups after an insertion -/

/-- The lookup sees the function code of an access and the page of an address, and nothing else of them (R371). -/
theorem atcFind_congr {la la' : Word} {acc acc' : Access} {s : State} (hfc : functionCode acc' = functionCode acc)
    (hpage : la' &&& ~~~s.regs.tc.pageMask = la &&& ~~~s.regs.tc.pageMask) :
    atcFind la' acc' s = atcFind la acc s := by
  unfold atcFind entryCovers
  rw [hfc, hpage]

theorem newEntry_hits (pageMask la : Word) (fc : BitVec 3) (pa : Word) (ci wp m : Bool) :
    AtcHits pageMask fc la (newEntry pageMask la fc pa ci wp m) :=
  ⟨rfl, rfl, by rw [newEntry, BitVec.and_assoc, BitVec.and_self]⟩

section
variable {la : Word} {acc : Access} (pa : Word) (ci wp m : Bool) {s : State}

theorem atcInsert_getElem?_victim (hlength : s.atc.length = atcEntries) (hmode : s.params.atcMode = .normal) :
    (atcInsert la (functionCode acc) pa ci wp m s).atc[(atcVictim s).1]?
      = some (newEntry s.regs.tc.pageMask la (functionCode acc) pa ci wp m) := by
  rw [atcInsert_atc _ _ _ _ _ _ hmode, List.getElem?_set_self (atcVictim_lt hlength)]

/-- Where nothing hit before an insertion, the inserted entry is the lowest hit after it. -/
theorem atcInsert_lowestHit (hlength : s.atc.length = atcEntries) (hmode : s.params.atcMode = .normal)
    (hmiss : atcFind la acc s = none) :
    LowestHit (atcInsert la (functionCode acc) pa ci wp m s) (functionCode acc) la (atcVictim s).1
      (newEntry s.regs.tc.pageMask la (functionCode acc) pa ci wp m) := by
  refine ⟨by rw [atcInsert_params, hmode], atcInsert_getElem?_victim pa ci wp m hlength hmode,
    by rw [atcInsert_regs]; exact newEntry_hits .., fun j hj x hx => ?_⟩
  rw [atcInsert_atc _ _ _ _ _ _ hmode, List.getElem?_set_ne hj.ne'] at hx
  rw [atcInsert_regs]
  rcases atcFind_eq_none_iff.mp hmiss with halways | hnone
  · rw [hmode] at halways
    cases halways
  · exact hnone x (List.mem_of_getElem? hx)

end

/-! ### Translations by a walk, and by the ATC -/

section
variable {la : Word} {acc : Access} {s : State}

/-- A translation walks only under an enabled and modelled TC, where the lookup misses (R401). -/
theorem locate_walk_inv {r : Translation} (h : (locate la acc s).1 = .ok r) (hvia : r.via = .walk) :
    s.regs.tc.enabled = true ∧ s.regs.tc.tcUnmodelled = false ∧ atcFind la acc s = none := by
  have hmodelled := modelled_of_locate_walk h hvia
  unfold locate at h
  split at h
  · rename_i hwindow
    cases h
    rcases ttResolve_hit_via hwindow with hw | hw <;> simp [hw] at hvia
  · cases h
  · split at h
    · cases h
      simp [identityTranslation] at hvia
    · rename_i henabled
      refine ⟨Bool.eq_true_of_not_eq_false henabled, hmodelled, ?_⟩
      simp only [hmodelled, Bool.false_eq_true, if_false, locatePaged] at h
      split at h
      · cases h
        simp [atcCompose] at hvia
      · assumption

/-- A TRANSLATE that answers a walk's translation leaves the machine that the walk left, with that translation
inserted (R401, R402). -/
theorem exec_translate_walk_inv {t : State} {r : Translation} (h : exec (.translate acc la) s = .next t)
    (hr : t.reply = .ok (.translation r)) (hvia : r.via = .walk) :
    (locate la acc s).1 = .ok r
      ∧ SameMachine (atcInsert la (functionCode acc) r.pa r.ci r.wp r.m (locate la acc s).2) t := by
  obtain ⟨a, ha, hresult⟩ := mapAns_fst_ok.mp (operation_ok_of_reply h hr)
  cases hresult
  rw [translate_fst] at ha
  refine ⟨ha, ?_⟩
  have hlocate : locate la acc s = (.ok r, (locate la acc s).2) := Prod.ext ha rfl
  have hsame := exec_sameMachine h
  rwa [operation, mapAns_snd, translate_of_locate hlocate, fillAtc, if_pos hvia] at hsame

theorem ttResolve_of_noWindow (h : NoWindow s la acc) : ttResolve la acc s = .miss :=
  have ⟨h0, h1⟩ := h
  ttResolve_of_tt1 h0 h1

theorem NoWindow.of_eq {t : State} (h : NoWindow s la acc) (hregs : t.regs = s.regs) (hparams : t.params = s.params) :
    NoWindow t la acc := by
  rw [NoWindow, hregs, hparams]; exact h

/-- A hit in the ATC is answered with no walk and no insertion (R401). -/
theorem exec_translate_of_atcFind {k : Nat} (hwindow : NoWindow s la acc) (henabled : s.regs.tc.enabled = true)
    (hmodelled : s.regs.tc.tcUnmodelled = false) (hfind : atcFind la acc s = some k) :
    exec (.translate acc la) s = .next (answered s (.translation (atcCompose s k la))) := by
  have hlocate : locate la acc s = (.ok (atcCompose s k la), s) := by
    simp [locate, ttResolve_of_noWindow hwindow, henabled, hmodelled, locatePaged, hfind]
  have hvia : (atcCompose s k la).via ≠ .walk := nofun
  rw [exec_eq_deliver, operation, translate_of_locate hlocate, fillAtc, if_neg hvia]
  rfl

end

/-- Settles O22: the walk's entry is the lowest hit of its page, and holds the walk's page and metadata. -/
theorem repeatedTranslationHitsTheAtc : Obligations.RepeatedTranslationHitsTheAtc := by
  intro s t acc acc' la la' r hlength hmode h hr hvia hfc hpage hwindow
  obtain ⟨hlocate, hsame⟩ := exec_translate_walk_inv h hr hvia
  obtain ⟨henabled, hmodelled, hmiss⟩ := locate_walk_inv hlocate hvia
  have hframe := locate_frame la acc s
  set u := (locate la acc s).2
  have hregs : t.regs = s.regs := by rw [hsame.regs, atcInsert_regs, hframe.regs]
  have hparams : t.params = s.params := by rw [hsame.params, atcInsert_params, hframe.params]
  have hmissAfter : atcFind la acc u = none := by
    rw [← hmiss, atcFind, hframe.params, hframe.atc, hframe.regs, atcFind]
  have hlowest := atcInsert_lowestHit r.pa r.ci r.wp r.m (by rw [hframe.atc]; exact hlength)
    (by rw [hframe.params]; exact hmode) hmissAfter
  have hfind : atcFind la' acc' t = some (atcVictim u).1 := by
    rw [atcFind_congr hfc (hregs ▸ hpage), hsame.atcFind_eq, atcFind_of_lowestHit hlowest]
  obtain ⟨-, hentry, -⟩ := hlowest
  rw [← hsame.atc] at hentry
  rw [exec_translate_of_atcFind (hwindow.of_eq hregs hparams) (by rw [hregs]; exact henabled)
    (by rw [hregs]; exact hmodelled) hfind, atcCompose, atcEntryAt_of_getElem? hentry, hregs, hframe.regs]
  simp only [composePage, newEntry, BitVec.and_assoc, BitVec.and_self]

end Sys2Proof.Machine
end

section
/-! PROOFS. Translations and the logical accesses (R401 to R410): what decides that an access is paged and crosses a
page, what TRANSLATE answers where no window matches, and the translation and physical access that LREAD and LWRITE
share. -/

namespace Sys2Proof.Machine

/-! ### TRANSLATE where no window matches (R401, R402) -/

section
variable {la : Word} {acc : Access} {s : State}

theorem locate_identity (hwindow : NoWindow s la acc) (hdisabled : s.regs.tc.enabled = false) :
    locate la acc s = (.ok (identityTranslation la), s) := by
  simp [locate, ttResolve_of_noWindow hwindow, hdisabled]

theorem locate_unmodelled (hwindow : NoWindow s la acc) (henabled : s.regs.tc.enabled = true)
    (hunmodelled : s.regs.tc.tcUnmodelled = true) : locate la acc s = (.refuse .tcUnmodelled, s) := by
  simp [locate, ttResolve_of_noWindow hwindow, henabled, hunmodelled]

theorem locate_walk (hwindow : NoWindow s la acc) (henabled : s.regs.tc.enabled = true)
    (hmodelled : s.regs.tc.tcUnmodelled = false) (hmiss : NoHit s (functionCode acc) la) :
    locate la acc s = mapAns walkTranslation (walk la acc s) := by
  simp [locate, ttResolve_of_noWindow hwindow, henabled, hmodelled, locatePaged, atcFind_eq_none_iff.mpr hmiss]

theorem translate_of_identity (hwindow : NoWindow s la acc) (hdisabled : s.regs.tc.enabled = false) :
    translate la acc s = (.ok (identityTranslation la), s) :=
  translate_of_locate (locate_identity hwindow hdisabled)

/-- TRANSLATE ends by what the translation answers (R401). -/
theorem exec_translate_of_ok {u : State} {t : Translation} (h : translate la acc s = (.ok t, u)) :
    exec (.translate acc la) s = .next (answered u (.translation t)) := by
  rw [exec_eq_deliver, operation, h]
  rfl

theorem exec_translate_of_fault {u : State} {f : FaultRecord} (h : translate la acc s = (.fault f, u)) :
    exec (.translate acc la) s = .next (faulted u f none) := by
  rw [exec_eq_deliver, operation, h]
  rfl

theorem exec_translate_of_refuse {u : State} {r : RefuseReason} (h : translate la acc s = (.refuse r, u)) :
    exec (.translate acc la) s = .next (refusedWith u r) := by
  rw [exec_eq_deliver, operation, h]
  rfl

end

/-- Settles O44: each branch of `locate` where no window matches; only the walk's translation is inserted. -/
theorem translateWithoutWindow : Obligations.TranslateWithoutWindow := by
  intro acc la s hwindow
  refine ⟨fun hdisabled => ?_, fun henabled hunmodelled => ?_, fun henabled hmodelled =>
    ⟨fun k e hlowest => ?_, fun hmiss => ?_⟩⟩
  · exact exec_translate_of_ok (translate_of_identity hwindow hdisabled)
  · refine exec_translate_of_refuse ?_
    rw [translate, locate_unmodelled hwindow henabled hunmodelled, andThen_refuse]
  · rw [exec_translate_of_atcFind hwindow henabled hmodelled (atcFind_of_lowestHit hlowest)]
    obtain ⟨-, hk, -⟩ := hlowest
    rw [atcCompose, atcEntryAt_of_getElem? hk]
    rfl
  · have hlocate := locate_walk hwindow henabled hmodelled hmiss
    refine ⟨fun r u hwalk => ?_, fun f u hwalk => ?_, fun f u hwalk => ?_⟩ <;> rw [hwalk] at hlocate
    · exact exec_translate_of_ok (translate_of_locate hlocate)
    · exact exec_translate_of_fault (by rw [translate, hlocate]; rfl)
    · exact exec_translate_of_refuse (by rw [translate, hlocate]; rfl)

/-! ### Page crossings (R403) -/

theorem ttOutcome_eq_miss_iff {n : Fin 2} {via : Via} {tt : TtDecoded} {la : Word} {acc : Access} {pc : Word}
    {r : TtResult} : ttOutcome n via tt la acc pc r = .miss ↔ r = .noMatch := by
  cases r <;> simp [ttOutcome]

theorem ttResolve_eq_miss_iff {la : Word} {acc : Access} {s : State} :
    ttResolve la acc s = .miss ↔ NoWindow s la acc := by
  refine ⟨fun h => ?_, ttResolve_of_noWindow⟩
  unfold ttResolve at h
  split at h
  · rename_i h0
    exact ⟨ttOutcome_eq_miss_iff.mp h0, ttOutcome_eq_miss_iff.mp h⟩
  · rename_i hne
    exact absurd h hne

/-- An access that is paged and whose bytes span two pages (R403). -/
theorem pageCross_iff {w : Width} {la : Word} {acc : Access} {s : State} : pageCross w la acc s = true ↔
    NoWindow s la acc ∧ s.regs.tc.enabled = true ∧ s.regs.tc.tcUnmodelled = false
      ∧ la &&& ~~~s.regs.tc.pageMask ≠ (la + BitVec.ofNat 32 (widthBytes w - 1)) &&& ~~~s.regs.tc.pageMask := by
  simp only [pageCross, pagedFor, crosses, Bool.and_eq_true, decide_eq_true_eq, Bool.not_eq_true',
    ttResolve_eq_miss_iff, and_assoc]

theorem pageCross_eq_false_iff {w : Width} {la : Word} {acc : Access} {s : State} : pageCross w la acc s = false ↔
    ¬ NoWindow s la acc ∨ s.regs.tc.enabled = false ∨ s.regs.tc.tcUnmodelled = true
      ∨ la &&& ~~~s.regs.tc.pageMask = (la + BitVec.ofNat 32 (widthBytes w - 1)) &&& ~~~s.regs.tc.pageMask := by
  rw [← Bool.not_eq_true, pageCross_iff]
  simp only [not_and_or, Bool.not_eq_true, Bool.not_eq_false, not_not]

/-! ### A physical access of a translated address -/

/-- What LREAD and LWRITE do with an access that crosses no page: one translation, and the physical access at its
address (R405 to R410). -/
def translatedAccess {α : Type} (la : Word) (acc : Access) (access : Translation → State → Ans α × State) (s : State) :
    Ans α × State :=
  andThen (locate la acc s) fun t u => physicalStage la acc t (access t) u

/-- An access that an insertion makes neither refused nor accepted. -/
def InsertionKeepsRefusals {α : Type} (access : State → Ans α × State) : Prop :=
  ∀ la acc t s r, (access (fillAtc la acc t s)).1 = .refuse r ↔ (access s).1 = .refuse r

theorem physRead_insertionKeepsRefusals (w : Width) (pa : Word) : InsertionKeepsRefusals (physRead w pa) := by
  intro la acc t s r
  obtain ⟨hslots, hstores, hparams, hoverlay⟩ := fillAtc_frame la acc t s
  exact physRead_refuse_congr hslots hstores hparams hoverlay r

theorem physStore_insertionKeepsRefusals (w : Width) (pa v : Word) : InsertionKeepsRefusals (physStore w pa v) := by
  intro la acc t s r
  obtain ⟨hslots, hstores, hparams, -⟩ := fillAtc_frame la acc t s
  rw [physStore, physStore, mapAns_fst_refuse, mapAns_fst_refuse]
  exact physWrite_refuse_congr hslots hstores hparams r

/-- A translation is found where it stands, or in the state that a walk leaves, and inserted there (R401). -/
theorem locate_of_translate_ok {la : Word} {acc : Access} {s u : State} {t : Translation}
    (h : translate la acc s = (.ok t, u)) :
    locate la acc s = (.ok t, if t.via = .walk then (walk la acc s).2 else s)
      ∧ u = fillAtc la acc t (if t.via = .walk then (walk la acc s).2 else s) := by
  have hlocate : locate la acc s = (.ok t, if t.via = .walk then (walk la acc s).2 else s) := by
    have hfst := (translate_fst la acc s).symm
    rw [h] at hfst
    rcases locate_cases la acc s with ⟨t', hvia, hl⟩ | ⟨f, hl⟩ | hl | hl <;> rw [hl] at hfst ⊢
    · cases hfst
      rw [if_neg hvia]
    · cases hfst
    · cases hfst
    · obtain ⟨r, hr, rfl⟩ := mapAns_fst_ok.mp hfst
      exact Prod.ext hfst (mapAns_snd ..)
  refine ⟨hlocate, ?_⟩
  rw [translate_of_locate hlocate] at h
  cases h
  rfl

section
variable {α : Type} {la : Word} {acc : Access} {access : Translation → State → Ans α × State} {s u : State}

theorem translatedAccess_of_fault {f : FaultRecord} (h : translate la acc s = (.fault f, u)) :
    translatedAccess la acc access s = (.fault f, u) := by
  rcases andThen_eq_fault.mp h with hlocate | ⟨t, s₁, -, hinsert⟩
  · rw [translatedAccess, hlocate, andThen_fault]
  · cases hinsert

theorem translatedAccess_of_refuse {r : RefuseReason} (h : translate la acc s = (.refuse r, u)) :
    translatedAccess la acc access s = (.refuse r, u) := by
  rcases andThen_eq_refuse.mp h with hlocate | ⟨t, s₁, -, hinsert⟩
  · rw [translatedAccess, hlocate, andThen_refuse]
  · cases hinsert

section
variable {t : Translation} {y : State} (h : translate la acc s = (.ok t, u))
  (hkeeps : InsertionKeepsRefusals (access t))
include h hkeeps

/-- A refusal is checked before the insertion, which then is not made (R461, log entry 19). -/
theorem translatedAccess_of_accessRefuse {r : RefuseReason} (haccess : access t u = (.refuse r, y)) :
    translatedAccess la acc access s = (.refuse r, if t.via = .walk then (walk la acc s).2 else s) := by
  obtain ⟨hlocate, rfl⟩ := locate_of_translate_ok h
  rw [translatedAccess, hlocate, andThen_ok]
  exact physicalStage_refuse _ _ _ _ _ ((hkeeps ..).mp (congrArg Prod.fst haccess))

/-- Any other access is that of the state the translation left, its fault record completed (R451). -/
theorem translatedAccess_of_access (haccess : ∀ r, (access t u).1 ≠ .refuse r) :
    translatedAccess la acc access s = mapFault (withLogical la acc) (access t u) := by
  obtain ⟨hlocate, rfl⟩ := locate_of_translate_ok h
  rw [translatedAccess, hlocate, andThen_ok]
  exact physicalStage_run _ _ _ _ _ fun r hr => haccess r ((hkeeps ..).mpr hr)

theorem translatedAccess_of_accessOk {a : α} (haccess : access t u = (.ok a, y)) :
    translatedAccess la acc access s = (.ok a, y) := by
  rw [translatedAccess_of_access h hkeeps (by simp [haccess]), haccess, mapFault_ok]

theorem translatedAccess_of_accessFault {f : FaultRecord} (haccess : access t u = (.fault f, y)) :
    translatedAccess la acc access s = (.fault (withLogical la acc f), y) := by
  rw [translatedAccess_of_access h hkeeps (by simp [haccess]), haccess, mapFault_fault]

end

end

/-! ### LREAD and LWRITE -/

section
variable {w : Width} {la : Word} {acc : Access} {s : State}

theorem logicalRead_of_pageCross (h : pageCross w la acc s = true) :
    logicalRead w la acc s = (.refuse .pageCross, s) := by
  rw [logicalRead, if_pos h]

theorem logicalWrite_of_pageCross (h : pageCross w la acc s = true) (v : Word) :
    logicalWrite w la acc v s = (.refuse .pageCross, s) := by
  rw [logicalWrite, if_pos h]

theorem logicalRead_eq_translatedAccess (h : pageCross w la acc s = false) :
    logicalRead w la acc s = translatedAccess la acc (fun t => physRead w t.pa) s := by
  rw [logicalRead, h]
  rfl

theorem logicalWrite_eq_translatedAccess (h : pageCross w la acc s = false) (v : Word) :
    logicalWrite w la acc v s = translatedAccess la acc (fun t => physStore w t.pa v) s := by
  rw [logicalWrite, h]
  rfl

end

theorem exec_lreadOf (w : Width) (sup dat : Bool) (la : Word) (s : State) :
    exec (lreadOf w sup dat la) s
      = deliver readCarries (mapAns (.value w) (logicalRead w la ⟨sup, dat, false⟩ s)) := by
  cases w <;> rfl

theorem setWidth_eq_truncateTo (w : Width) (v : Word) :
    (v.setWidth (8 * widthBytes w)).setWidth 32 = truncateTo w v := by
  apply BitVec.eq_of_toNat_eq
  rw [truncateTo_toNat, BitVec.toNat_setWidth, BitVec.toNat_setWidth]
  exact Nat.mod_eq_of_lt (Nat.lt_of_le_of_lt (Nat.mod_le ..) v.isLt)

/-- LWRITE passes on the low bits of its value (R10). -/
theorem exec_lwriteOf {w : Width} {x v : Word} (h : x.toNat = v.toNat % 2 ^ (8 * widthBytes w)) (sup dat : Bool)
    (la : Word) (s : State) :
    exec (lwriteOf w sup dat la v) s = deliver carriesNone (logicalWrite w la ⟨sup, dat, true⟩ x s) := by
  obtain rfl : truncateTo w v = x := BitVec.eq_of_toNat_eq ((truncateTo_toNat w v).trans h.symm)
  cases w with
  | byte | word => rw [← setWidth_eq_truncateTo]; rfl
  | long => rfl

section
variable {w : Width} {sup dat : Bool} {la v : Word} {s u : State}

theorem exec_lreadOf_of_pageCross (h : pageCross w la ⟨sup, dat, false⟩ s = true) :
    exec (lreadOf w sup dat la) s = .next (refusedWith s .pageCross) := by
  rw [exec_lreadOf, logicalRead_of_pageCross h]
  rfl

theorem exec_lwriteOf_of_pageCross (h : pageCross w la ⟨sup, dat, true⟩ s = true) :
    exec (lwriteOf w sup dat la v) s = .next (refusedWith s .pageCross) := by
  rw [exec_lwriteOf (truncateTo_toNat w v), logicalWrite_of_pageCross h]
  rfl

section
variable {t : Translation} {x : Word} {y : State} (hpages : pageCross w la ⟨sup, dat, false⟩ s = false)
  (htranslate : translate la ⟨sup, dat, false⟩ s = (.ok t, u))
include hpages htranslate

theorem exec_lreadOf_of_ok (hread : physRead w t.pa u = (.ok x, y)) :
    exec (lreadOf w sup dat la) s = .next (answered y (.value w x)) := by
  rw [exec_lreadOf, logicalRead_eq_translatedAccess hpages,
    translatedAccess_of_accessOk htranslate (physRead_insertionKeepsRefusals w t.pa) hread]
  rfl

/-- The fault of a physical read is a bus error, which carries the value 0 (R453). -/
theorem exec_lreadOf_of_fault {f : FaultRecord} (hread : physRead w t.pa u = (.fault f, y)) :
    exec (lreadOf w sup dat la) s
      = .next (faulted y { f with la := some la, acc := some ⟨sup, dat, false⟩ } (some 0)) := by
  obtain rfl := physRead_fault (congrArg Prod.fst hread)
  rw [exec_lreadOf, logicalRead_eq_translatedAccess hpages,
    translatedAccess_of_accessFault htranslate (physRead_insertionKeepsRefusals w t.pa) hread]
  rfl

theorem exec_lreadOf_of_refuse {r : RefuseReason} (hread : physRead w t.pa u = (.refuse r, y)) :
    exec (lreadOf w sup dat la) s
      = .next (refusedWith (if t.via = .walk then (walk la ⟨sup, dat, false⟩ s).2 else s) r) := by
  rw [exec_lreadOf, logicalRead_eq_translatedAccess hpages,
    translatedAccess_of_accessRefuse htranslate (physRead_insertionKeepsRefusals w t.pa) hread]
  rfl

end

section
variable {t : Translation} {x : Word} {y : State} (hpages : pageCross w la ⟨sup, dat, true⟩ s = false)
  (htranslate : translate la ⟨sup, dat, true⟩ s = (.ok t, u)) (hx : x.toNat = v.toNat % 2 ^ (8 * widthBytes w))
include hpages htranslate hx

theorem exec_lwriteOf_of_ok (hwrite : physWrite w t.pa x u = (.ok (), y)) :
    exec (lwriteOf w sup dat la v) s = .next (answered y .unit) := by
  have hstore : physStore w t.pa x u = (.ok .unit, y) := by rw [physStore, hwrite, mapAns_ok]
  rw [exec_lwriteOf hx, logicalWrite_eq_translatedAccess hpages,
    translatedAccess_of_accessOk htranslate (physStore_insertionKeepsRefusals w t.pa x) hstore]
  rfl

theorem exec_lwriteOf_of_fault {f : FaultRecord} (hwrite : physWrite w t.pa x u = (.fault f, y)) :
    exec (lwriteOf w sup dat la v) s
      = .next (faulted y { f with la := some la, acc := some ⟨sup, dat, true⟩ } none) := by
  have hstore : physStore w t.pa x u = (.fault f, y) := by rw [physStore, hwrite, mapAns_fault]
  rw [exec_lwriteOf hx, logicalWrite_eq_translatedAccess hpages,
    translatedAccess_of_accessFault htranslate (physStore_insertionKeepsRefusals w t.pa x) hstore]
  rfl

theorem exec_lwriteOf_of_refuse {r : RefuseReason} (hwrite : physWrite w t.pa x u = (.refuse r, y)) :
    exec (lwriteOf w sup dat la v) s
      = .next (refusedWith (if t.via = .walk then (walk la ⟨sup, dat, true⟩ s).2 else s) r) := by
  have hstore : physStore w t.pa x u = (.refuse r, y) := by rw [physStore, hwrite, mapAns_refuse]
  rw [exec_lwriteOf hx, logicalWrite_eq_translatedAccess hpages,
    translatedAccess_of_accessRefuse htranslate (physStore_insertionKeepsRefusals w t.pa x) hstore]
  rfl

end

end

/-- Settles O45: the page test decides first; past it both commands are a translated access, which ends by the
translation, or by the physical access in the state that the translation left. -/
theorem logicalAccessIsTranslatedOnce : Obligations.LogicalAccessIsTranslatedOnce := by
  rintro w sup dat la v s _ _ rfl rfl
  refine ⟨fun acc hwindow henabled hmodelled hpages => ⟨?_, ?_⟩, fun acc hpages => ⟨?_, ?_⟩⟩
  · rintro rfl
    exact exec_lreadOf_of_pageCross (pageCross_iff.mpr ⟨hwindow, henabled, hmodelled, hpages⟩)
  · rintro rfl
    exact exec_lwriteOf_of_pageCross (pageCross_iff.mpr ⟨hwindow, henabled, hmodelled, hpages⟩)
  · rintro rfl
    have hpages := pageCross_eq_false_iff.mpr hpages
    refine ⟨fun f u htranslate => ⟨readCarries f, ?_⟩, fun r u htranslate => ?_, fun t u htranslate =>
      ⟨fun x y => exec_lreadOf_of_ok hpages htranslate, fun f y => exec_lreadOf_of_fault hpages htranslate,
        fun r y => exec_lreadOf_of_refuse hpages htranslate⟩⟩
    · rw [exec_lreadOf, logicalRead_eq_translatedAccess hpages, translatedAccess_of_fault htranslate]
      rfl
    · rw [exec_lreadOf, logicalRead_eq_translatedAccess hpages, translatedAccess_of_refuse htranslate]
      rfl
  · rintro rfl
    have hpages := pageCross_eq_false_iff.mpr hpages
    refine ⟨fun f u htranslate => ?_, fun r u htranslate => ?_, fun t u y x htranslate hx =>
      ⟨exec_lwriteOf_of_ok hpages htranslate hx, fun f => exec_lwriteOf_of_fault hpages htranslate hx,
        fun r => exec_lwriteOf_of_refuse hpages htranslate hx⟩⟩
    · rw [exec_lwriteOf (truncateTo_toNat w v), logicalWrite_eq_translatedAccess hpages,
        translatedAccess_of_fault htranslate]
      rfl
    · rw [exec_lwriteOf (truncateTo_toNat w v), logicalWrite_eq_translatedAccess hpages,
        translatedAccess_of_refuse htranslate]
      rfl

/-! ### With translation off (R401, R82) -/

theorem ttMatch_of_disabled {tt : TtDecoded} (h : tt.enabled = false) (p : Params) (la : Word) (acc : Access) :
    ttMatch p tt la acc = .noMatch := if_pos h

/-- Settles O46: the identity translates the address, and the physical access there is that of O25 and O29. -/
theorem logicalAccessWithTranslationOff : Obligations.LogicalAccessWithTranslationOff := by
  rintro w sup dat la v s m size o htt0 htt1 hdisabled hstore hm rfl hwithin
  have htranslate : ∀ acc, translate la acc s = (.ok (identityTranslation la), s) := fun acc =>
    translate_of_identity ⟨ttMatch_of_disabled htt0 .., ttMatch_of_disabled htt1 ..⟩ hdisabled
  have hpages : ∀ acc, pageCross w la acc s = false := fun acc =>
    pageCross_eq_false_iff.mpr (.inr (.inl hdisabled))
  refine ⟨fun hoverlay => ⟨_, joinBytes_readBytes_toNat m _ w, ?_⟩, fun hrom => ?_⟩
  · refine exec_lreadOf_of_ok (hpages _) (htranslate _) ?_
    rw [identityTranslation, physRead_of_store hstore hoverlay, storeRead_within hwithin]
  · refine ⟨_, writeBytes_holdsAt hm _ (truncateTo_toNat w v),
      exec_lwriteOf_of_ok (hpages _) (htranslate _) (truncateTo_toNat w v) ?_⟩
    rw [identityTranslation, physWrite_of_store hstore hrom, storeWrite_within hwithin]
    rfl

end Sys2Proof.Machine
end

section
/-! PROOFS. The queries (R415, R416) and the snapshot view (R420 to R423): the words of a view, word by word, as
SNAP_SAVE writes them and as SNAP_RESTORE takes them, and that the second inverts the first. -/

namespace Sys2Proof.Machine

/-! ### The queries (R415, R416) -/

theorem exec_regionName (pa : Word) (s : State) : exec (.regionName pa) s
    = .next (answered s (.name (bankName (bankAt s.slots (pa.toNat / 0x10000)) s.params))) :=
  exec_eq_deliver (.regionName pa) s

theorem bankName_ram {p : Params} {b : Nat} {r : RamBank} (hr : p.ram[b]? = some r) : bankName (.ram b) p = r.name := by
  rw [bankName, hr]

/-- Settles O34: each query is its answer, given in the state as it was. -/
theorem queriesAnswerAndChangeNothing : Obligations.QueriesAnswerAndChangeNothing := by
  intro pa s
  refine ⟨decodeReadsBackEncode (.regionName pa) rfl, decodeReadsBackEncode .queryDecoded rfl,
    exec_eq_deliver .queryDecoded s, ?_⟩
  have hname := exec_regionName pa s
  cases hbank : bankAt s.slots (pa.toNat / 0x10000) with rw [hbank] at hname
  | ram b =>
    intro r hr
    rwa [bankName_ram hr] at hname
  | rom | videoMono | videoColor | empty | busErr | io => exact hname

/-! ### The words of a view (R420) -/

/-- A word is the join of the bytes it is split into. -/
theorem append_splitBytes (v : Word) :
    v.extractLsb' 24 8 ++ v.extractLsb' 16 8 ++ v.extractLsb' 8 8 ++ v.setWidth 8 = v := by
  rw [BitVec.setWidth_eq_extractLsb' (by decide), BitVec.extractLsb'_append_extractLsb'_eq_extractLsb' (by rfl),
    BitVec.extractLsb'_append_extractLsb'_eq_extractLsb' (by rfl),
    BitVec.extractLsb'_append_extractLsb'_eq_extractLsb' (by rfl), BitVec.extractLsb'_eq_self]

/-- The words of the bytes of words are the words. -/
theorem wordsOfBytes_flatMap (l : List Word) : wordsOfBytes (l.flatMap (splitBytes .long)) = l := by
  induction l with
  | nil => rfl
  | cons v l ih =>
    rw [List.flatMap_cons]
    exact congrArg₂ List.cons (append_splitBytes v) ih

theorem wordsOfBytes_viewBytes (s : State) : wordsOfBytes (viewBytes s) = viewWords s := wordsOfBytes_flatMap _

theorem packAll_length (l : List AtcEntry) : (packAll l).length = 2 * l.length := by
  induction l with
  | nil => rfl
  | cons e l ih => simp only [packAll, List.length_cons, ih]; omega

/-- Each entry stands in two words, its tag first (R420). -/
theorem packAll_getElem? (l : List AtcEntry) (k : Nat) :
    (packAll l)[2 * k]? = l[k]?.map packTag ∧ (packAll l)[2 * k + 1]? = l[k]?.map packEntry := by
  induction l generalizing k with
  | nil => exact ⟨rfl, rfl⟩
  | cons e l ih =>
    cases k with
    | zero => exact ⟨rfl, rfl⟩
    | succ k => exact ih k

theorem viewWords_length {s : State} (h : s.atc.length = 22) : (viewWords s).length = 54 := by
  rw [viewWords, List.length_append, packAll_length, h]
  rfl

theorem quadHi_eq_shift (v : Quad) : (v >>> 32).setWidth 32 = quadHi v := by
  refine BitVec.eq_of_getLsbD_eq fun k hk => ?_
  simp [quadHi, hk]

/-- The ten words before the entries (R420). -/
theorem viewHead_getElem? (s : State) : ∀ j < 10, (viewHead s.regs)[j]? = some (snapshotWord s j)
  | 2, _ => congrArg some (quadHi_eq_shift s.regs.srpRaw).symm
  | 4, _ => congrArg some (quadHi_eq_shift s.regs.crpRaw).symm
  | 0, _ | 1, _ | 3, _ | 5, _ | 6, _ | 7, _ | 8, _ | 9, _ => rfl
  | _ + 10, h => absurd h (Nat.not_lt.mpr (Nat.le_add_left ..))

/-- The words of the entries (R420). -/
theorem packAll_getElem?_of_lt {s : State} {n : Nat} (hn : n < 2 * s.atc.length) :
    (packAll s.atc)[n]? = some (snapshotWord s (n + 10)) := by
  obtain ⟨htag, hentry⟩ := packAll_getElem? s.atc (n / 2)
  have hk : n / 2 < s.atc.length := by omega
  simp only [snapshotWord, List.getD_eq_getElem?_getD]
  rw [List.getElem?_eq_getElem hk] at htag hentry ⊢
  rcases Nat.mod_two_eq_zero_or_one n with hparity | hparity
  · rw [if_pos hparity]
    rwa [show 2 * (n / 2) = n by omega] at htag
  · rw [if_neg (by omega)]
    rwa [show 2 * (n / 2) + 1 = n by omega] at hentry

theorem viewWords_getElem? {s : State} (h : s.atc.length = 22) {j : Nat} (hj : j < 54) :
    (viewWords s)[j]? = some (snapshotWord s j) := by
  have hhead : (viewHead s.regs).length = 10 := rfl
  rcases Nat.lt_or_ge j 10 with hlt | hge
  · rw [viewWords, List.getElem?_append_left hlt, viewHead_getElem? s j hlt]
  · rw [viewWords, List.getElem?_append_right hge, hhead, packAll_getElem?_of_lt (by omega),
      Nat.sub_add_cancel hge]

/-- Settles O52: the bytes are those of the view's words, four of each. -/
theorem snapSaveAnswersTheView : Obligations.SnapSaveAnswersTheView := by
  refine ⟨decodeReadsBackEncode .snapSave rfl, fun s hlength =>
    ⟨viewBytes s, exec_eq_deliver .snapSave s, ?_, ?_, ?_⟩⟩
  · have hfour : ∀ v : Word, (splitBytes .long v).length = 4 := splitBytes_length .long
    simp only [viewBytes, List.length_flatMap, hfour, List.map_const', List.sum_replicate, viewWords_length hlength]
    rfl
  · rw [wordsOfBytes_viewBytes, viewWords_length hlength]
  · intro j hj
    rw [wordsOfBytes_viewBytes, viewWords_getElem? hlength hj]

/-! ### The views that a restore accepts (R421) -/

theorem entryWords_iff {view : List Word} (hlength : view.length = 54) :
    (view.drop 10).all (fun v => decide (v &&& 0xF0 = 0)) = true
      ↔ ∀ j, 10 ≤ j → j < 54 → view.getD j 0 &&& 0xF0 = 0 := by
  simp only [List.all_eq_true, decide_eq_true_eq, List.forall_mem_iff_getElem, List.getElem_drop, List.length_drop,
    hlength]
  constructor
  · intro h j hge hlt
    obtain ⟨i, rfl⟩ := Nat.exists_eq_add_of_le hge
    rw [List.getD_eq_getElem _ _ (by omega)]
    exact h i (by omega)
  · intro h i hi
    rw [← List.getD_eq_getElem view 0]
    exact h (10 + i) (by omega) (by omega)

theorem viewOk_iff (view : List Word) : viewOk view = true ↔
    view.length = 54 ∧ view.getD 0 0 = 1 ∧ view.getD 9 0 = 22 ∧ (view.getD 8 0).toNat < 0x10000
      ∧ ∀ j, 10 ≤ j → j < 54 → view.getD j 0 &&& 0xF0 = 0 := by
  have hstatus := and_highMask_eq_zero_iff (view.getD 8 0) (n := 16) (by decide)
  simp only [viewOk, Bool.and_eq_true, decide_eq_true_eq, and_assoc]
  refine and_congr_right fun hlength => and_congr_right fun _ => and_congr_right fun _ => ?_
  exact and_congr hstatus (entryWords_iff hlength)

theorem exec_snapRestore_refused {view : List Word} (h : viewOk view = false) (s : State) :
    exec (.snapRestore view) s = .next (refusedWith s .snapshot) := by
  rw [exec_eq_deliver, operation, restore, h]
  rfl

theorem exec_snapRestore {view : List Word} (h : viewOk view = true) (s : State) :
    exec (.snapRestore view) s = .next (answered
      { s with regs := viewRegisters view, atc := unpackAll (view.drop 10), atcNext := 0 } .unit) := by
  rw [exec_eq_deliver, operation, restore, if_pos h]
  rfl

/-- Entry `k` of a list of word pairs. -/
theorem unpackAll_getElem? : ∀ (l : List Word) (k : Nat), 2 * k + 1 < l.length →
    (unpackAll l)[k]? = some (unpackEntry (l.getD (2 * k) 0) (l.getD (2 * k + 1) 0))
  | [], _, h | [_], _, h => by simp at h
  | _ :: _ :: _, 0, _ => rfl
  | _ :: _ :: l, k + 1, h => unpackAll_getElem? l k (by simp only [List.length_cons] at h; omega)

theorem view_entry {view : List Word} (hlength : view.length = 54) {k : Nat} (hk : k < 22) :
    (unpackAll (view.drop 10))[k]? = some (unpackEntry (view.getD (10 + 2 * k) 0) (view.getD (11 + 2 * k) 0)) := by
  have hdrop : ∀ i, (view.drop 10).getD i 0 = view.getD (10 + i) 0 := fun i => by
    simp only [List.getD_eq_getElem?_getD, List.getElem?_drop]
  rw [unpackAll_getElem? _ k (by rw [List.length_drop, hlength]; omega), hdrop, hdrop,
    show 10 + (2 * k + 1) = 11 + 2 * k by omega]

/-- A 64-bit field of a view is its two words, the upper first (R420). -/
theorem viewQuad_eq_append (view : List Word) (i : Nat) : viewQuad view i = view.getD i 0 ++ view.getD (i + 1) 0 := by
  have h := value64_quadHi_quadLo (view.getD i 0 ++ view.getD (i + 1) 0)
  rwa [quadHi_append, quadLo_append] at h

theorem decode_snapRestore_wrongLength {view : List Word} (h : view.length ≠ 54) :
    decode (0x61 :: view) = .reject .viewLength :=
  (decode_of_legal (legalHeader_plain (op := .snapRestore) rfl) view).trans (if_neg h)

/-- Settles O53: `viewOk` tests what R421 lists, and an accepted view is taken field by field. -/
theorem snapRestoreTakesTheView : Obligations.SnapRestoreTakesTheView := by
  intro view s
  refine ⟨fun hlength => ?_, fun hlength pc rest => ?_, fun hbad => ?_,
    fun hlength hversion hcount hstatus hentries => ?_⟩
  · exact decodeReadsBackEncode (.snapRestore view) (decide_eq_true hlength)
  · obtain ⟨-, -, hreject, -⟩ := stepTakesHostEvents s rest
    exact hreject _ pc _ (decode_snapRestore_wrongLength hlength)
  · refine exec_snapRestore_refused (Bool.eq_false_of_not_eq_true fun hok => ?_) s
    obtain ⟨hlength, hversion, hcount, hstatus, hentries⟩ := (viewOk_iff view).mp hok
    rcases hbad with h | h | h | h | ⟨j, hge, hlt, h⟩
    · exact h hlength
    · exact h hversion
    · exact h hcount
    · exact Nat.not_lt.mpr h hstatus
    · exact h (hentries j hge hlt)
  · have hok := (viewOk_iff view).mpr ⟨hlength, hversion, hcount, hstatus, hentries⟩
    exact ⟨_, _, exec_snapRestore hok s, rfl, viewQuad_eq_append view 2, viewQuad_eq_append view 4, rfl, rfl, rfl,
      viewRegisters_decodedAgrees view, viewOk_entries hok, fun k hk => view_entry hlength hk⟩

/-! ### Restoring what was saved (R423) -/

theorem unpackAll_packAll {l : List AtcEntry} (h : ∀ e ∈ l, e.ltag &&& 0xFF = 0 ∧ e.ppage &&& 0xFF = 0) :
    unpackAll (packAll l) = l := by
  induction l with
  | nil => rfl
  | cons e l ih =>
    obtain ⟨⟨htag, hpage⟩, hrest⟩ := List.forall_mem_cons.mp h
    rw [packAll, unpackAll, unpackEntry_pack htag hpage, ih hrest]

/-- Bits 7:4 of a packed word lie between its page field and its other fields (R150). -/
theorem packed_and_0xF0 (v : Word) {low : Word} (h : low &&& 0xF0 = 0) : ((v &&& 0xFFFFFF00) ||| low) &&& 0xF0 = 0 := by
  have hpage : (0xFFFFFF00 : Word) &&& 0xF0 = 0 := rfl
  rw [BitVec.and_or_distrib_right, BitVec.and_assoc, hpage, h]
  simp

theorem tagLow_and_0xF0 : ∀ fc valid, tagLow fc valid &&& 0xF0 = 0 := by decide

theorem entryLow_and_0xF0 : ∀ m wp ci b, entryLow m wp ci b &&& 0xF0 = 0 := by decide

theorem packAll_and_0xF0 (l : List AtcEntry) : ∀ v ∈ packAll l, v &&& 0xF0 = 0 := by
  induction l with
  | nil => nofun
  | cons e l ih =>
    refine List.forall_mem_cons.mpr ⟨?_, List.forall_mem_cons.mpr ⟨?_, ih⟩⟩
    · rw [packTag_eq]
      exact packed_and_0xF0 _ (tagLow_and_0xF0 ..)
    · rw [packEntry_eq]
      exact packed_and_0xF0 _ (entryLow_and_0xF0 ..)

theorem viewOk_viewWords {s : State} (h : s.atc.length = 22) : viewOk (viewWords s) = true := by
  have hentries : (viewWords s).drop 10 = packAll s.atc := rfl
  have hstatus : s.regs.mmusrRaw.setWidth 32 &&& 0xFFFF0000 = 0 := by
    refine (and_highMask_eq_zero_iff _ (n := 16) (by decide)).mpr ?_
    rw [BitVec.toNat_setWidth]
    exact Nat.lt_of_le_of_lt (Nat.mod_le ..) s.regs.mmusrRaw.isLt
  simp only [viewOk, Bool.and_eq_true, decide_eq_true_eq, hentries, List.all_eq_true]
  exact ⟨⟨⟨⟨viewWords_length h, rfl⟩, rfl⟩, hstatus⟩, packAll_and_0xF0 s.atc⟩

/-- The raw registers decide the decoded ones (R37). -/
theorem DecodedAgrees.ext {r q : Registers} (hr : DecodedAgrees r) (hq : DecodedAgrees q) (htc : r.tcRaw = q.tcRaw)
    (hsrp : r.srpRaw = q.srpRaw) (hcrp : r.crpRaw = q.crpRaw) (htt0 : r.tt0Raw = q.tt0Raw)
    (htt1 : r.tt1Raw = q.tt1Raw) (hmmusr : r.mmusrRaw = q.mmusrRaw) : r = q := by
  cases r
  cases q
  simp_all [DecodedAgrees]

theorem viewRegisters_viewWords {s : State} (h : DecodedAgrees s.regs) : viewRegisters (viewWords s) = s.regs := by
  have hsrp : viewQuad (viewWords s) 2 = s.regs.srpRaw := value64_quadHi_quadLo s.regs.srpRaw
  have hcrp : viewQuad (viewWords s) 4 = s.regs.crpRaw := value64_quadHi_quadLo s.regs.crpRaw
  have hmmusr : (viewWord (viewWords s) 8).setWidth 16 = s.regs.mmusrRaw :=
    (BitVec.setWidth_setWidth_of_le s.regs.mmusrRaw (by decide)).trans (BitVec.setWidth_eq _)
  exact (viewRegisters_decodedAgrees _).ext h rfl hsrp hcrp rfl rfl hmmusr

/-- Settles O54: the words of the saved bytes are an accepted view, which unpacks to the state it was made of. -/
theorem snapshotRoundTrip : Obligations.SnapshotRoundTrip := by
  intro s t u bytes hdecoded haligned hlength hsave hreply
  obtain rfl : viewBytes s = bytes := by
    have hanswer := operation_ok_of_reply hsave hreply
    cases hanswer
    rfl
  have hentries : (viewWords s).drop 10 = packAll s.atc := rfl
  rw [wordsOfBytes_viewBytes, exec_snapRestore (viewOk_viewWords hlength), viewRegisters_viewWords hdecoded, hentries,
    unpackAll_packAll haligned]

end Sys2Proof.Machine
end

section
/-! PROOFS. Faults of physical accesses (R230 to R241, R453): a bus error comes of a bank that gives one, and before it
the access changes no register, slot, store or input. -/

namespace Sys2Proof.Machine

variable {α β : Type}

/-! ### A faulting part of an operation -/

/-- Where a part of an operation faults, a relation holds of the record and the state it leaves. -/
structure OnFault (P : FaultRecord → State → Prop) (x : Ans α × State) : Prop where
  leaves : ∀ f u, x = (.fault f, u) → P f u

section
variable {P Q : FaultRecord → State → Prop}

theorem OnFault.of_ne_fault {x : Ans α × State} (h : ∀ f, x.1 ≠ .fault f) : OnFault P x :=
  ⟨fun f _ hx => absurd (congrArg Prod.fst hx) (h f)⟩

theorem OnFault.of_ok {a : α} {s : State} : OnFault P (.ok a, s) := .of_ne_fault (by simp)

theorem OnFault.of_refuse {r : RefuseReason} {s : State} : OnFault P ((.refuse r, s) : Ans α × State) :=
  .of_ne_fault (by simp)

theorem OnFault.of_fault {f : FaultRecord} {s : State} (h : P f s) : OnFault P ((.fault f, s) : Ans α × State) :=
  ⟨by rintro _ _ ⟨⟩; exact h⟩

theorem OnFault.imp {x : Ans α × State} (h : OnFault P x) (hPQ : ∀ f u, P f u → Q f u) : OnFault Q x :=
  ⟨fun f u hx => hPQ f u (h.leaves f u hx)⟩

theorem OnFault.andThen {x : Ans α × State} {g : α → State → Ans β × State} (h : OnFault P x)
    (hg : ∀ a t, x = (.ok a, t) → OnFault P (g a t)) : OnFault P (andThen x g) := by
  refine ⟨fun f u hx => ?_⟩
  rcases andThen_eq_fault.mp hx with hfirst | ⟨a, t, hok, hrest⟩
  · exact h.leaves f u hfirst
  · exact (hg a t hok).leaves f u hrest

theorem OnFault.mapAns {x : Ans α × State} (h : OnFault P x) (g : α → β) : OnFault P (mapAns g x) :=
  h.andThen fun _ _ _ => .of_ok

theorem OnFault.mapFault {x : Ans α × State} {g : FaultRecord → FaultRecord} (h : OnFault (fun f u => P (g f) u) x) :
    OnFault P (mapFault g x) := by
  obtain ⟨answer, s⟩ := x
  cases answer with
  | ok a => exact .of_ok
  | fault f => exact .of_fault (h.leaves f s rfl)
  | refuse r => exact .of_refuse

end

/-! ### What a fault leaves alone (R453) -/

/-- What an operation may have changed when it faults: the ATC, the histories and the draws. Of `diag_log`, only limit
events have been added. -/
structure FaultFrame (s t : State) : Prop where
  regs : t.regs = s.regs
  slots : t.slots = s.slots
  stores : t.stores = s.stores
  params : t.params = s.params
  loader : t.loader = s.loader
  bootOverlay : t.bootOverlay = s.bootOverlay
  diagPc : t.diagPc = s.diagPc
  inbox : t.inbox = s.inbox
  refused : t.refused = s.refused
  log : ∃ l, t.diagLog = s.diagLog ++ l ∧ ∀ e ∈ l, isLimitEvent e = true

theorem FetchFrame.faultFrame {s t : State} (h : FetchFrame s t) : FaultFrame s t :=
  { h with }

theorem FaultFrame.refl (s : State) : FaultFrame s s := (FetchFrame.refl s).faultFrame

theorem FaultFrame.trans {s t u : State} (h : FaultFrame s t) (g : FaultFrame t u) : FaultFrame s u where
  regs := g.regs.trans h.regs
  slots := g.slots.trans h.slots
  stores := g.stores.trans h.stores
  params := g.params.trans h.params
  loader := g.loader.trans h.loader
  bootOverlay := g.bootOverlay.trans h.bootOverlay
  diagPc := g.diagPc.trans h.diagPc
  inbox := g.inbox.trans h.inbox
  refused := g.refused.trans h.refused
  log := appended_trans h.log g.log

theorem fillAtc_faultFrame (la : Word) (acc : Access) (t : Translation) (s : State) :
    FaultFrame s (fillAtc la acc t s) := by
  unfold fillAtc
  split
  · constructor <;> simp
  · exact .refl s

theorem ioReadState_faultFrame (w : Width) (pa : Word) (s : State) : FaultFrame s (ioReadState w pa s) :=
  { FaultFrame.refl s with }

theorem ioWriteState_faultFrame (w : Width) (pa v : Word) (s : State) : FaultFrame s (ioWriteState w pa v s) :=
  { FaultFrame.refl s with }

/-! ### Banks (R241) -/

/-- The bus error of a bank: where it may arise, its record, and what is left. -/
structure BankFault (s : State) (pa : Word) (w : Width) (write : Bool) (f : FaultRecord) (u : State) : Prop where
  record : f = busErrorRecord s pa w write
  bank : BusErrorAt s pa w write
  frame : FaultFrame s u

section
variable {s : State} {pa : Word} {w : Width} {write : Bool}

theorem busErr_onFault (h : bankAt s.slots (pa.toNat / 0x10000) = .busErr) :
    OnFault (α := α) (BankFault s pa w write) (.fault (bankFault pa w write s.diagPc), s) :=
  .of_fault ⟨rfl, .inl h, .refl s⟩

theorem empty_onFault (h : bankAt s.slots (pa.toNat / 0x10000) = .empty)
    (haccess : w ≠ .long ∨ (write = true ∧ emptyOwnerAt s.params (pa.toNat / 0x10000) = none)) :
    OnFault (α := α) (BankFault s pa w write) (.fault (bankFault pa w write s.diagPc), s) :=
  .of_fault ⟨rfl, .inr (.inr ⟨h, haccess⟩), .refl s⟩

theorem io_onFault (h : bankAt s.slots (pa.toNat / 0x10000) = .io) {u : State} (hframe : FaultFrame s u) :
    OnFault (α := α) (BankFault s pa w write) (.fault (bankFault pa w write s.diagPc), u) :=
  .of_fault ⟨rfl, .inr (.inl h), hframe⟩

end

theorem romRead_ne_fault (w : Width) (pa : Word) (s : State) (f : FaultRecord) : (romRead w pa s).1 ≠ .fault f := by
  unfold romRead overlayRead
  split
  · split
    · exact ramRead_ne_fault _ w _ s f
    · exact nofun
  · exact storeRead_ne_fault _ _ w pa f

theorem commitStore_ne_fault {s : State} {put : Memory → State} {m : Memory} {mask : Nat} {w : Width} {pa v : Word}
    (f : FaultRecord) : (commitStore s put (storeWrite m mask w pa v)).1 ≠ .fault f := by
  rcases storeWrite_cases (m := m) (mask := mask) (w := w) (pa := pa) (v := v) with ⟨-, h⟩ | ⟨-, h⟩ <;>
    rw [h] <;> exact nofun

theorem ramWrite_ne_fault (b : Nat) (w : Width) (pa v : Word) (s : State) (f : FaultRecord) :
    (ramWrite b w pa v s).1 ≠ .fault f := by
  unfold ramWrite
  split
  · exact commitStore_ne_fault f
  · exact nofun

theorem emptyRedirect_ne_fault (b : Nat) (pa v : Word) (s : State) (f : FaultRecord) :
    (emptyRedirect b pa v s).1 ≠ .fault f := by
  unfold emptyRedirect
  split
  · split <;> exact nofun
  · exact nofun

theorem physRead_onFault (w : Width) (pa : Word) (s : State) :
    OnFault (BankFault s pa w false) (physRead w pa s) := by
  rw [physRead_eq]
  cases hbank : bankAt s.slots (pa.toNat / 0x10000) with
  | ram b => exact .of_ne_fault (ramRead_ne_fault b w pa s)
  | rom => exact .of_ne_fault (romRead_ne_fault w pa s)
  | videoMono | videoColor => exact .of_ne_fault (storeRead_ne_fault _ _ w pa)
  | empty =>
    cases w with
    | byte | word => exact empty_onFault hbank (.inl nofun)
    | long => exact .of_ok
  | busErr => exact busErr_onFault hbank
  | io =>
    dsimp only [bankRead, ioRead]
    split
    · exact io_onFault hbank (ioReadState_faultFrame w pa s)
    · exact .of_ok

theorem emptyWrite_onFault {w : Width} {pa v : Word} {s : State}
    (hbank : bankAt s.slots (pa.toNat / 0x10000) = .empty) :
    OnFault (BankFault s pa w true) (emptyWrite w pa v s) := by
  cases w with
  | byte | word => exact empty_onFault hbank (.inl nofun)
  | long =>
    dsimp only [emptyWrite]
    split
    · next howner => exact empty_onFault hbank (.inr ⟨rfl, howner⟩)
    · exact .of_ne_fault (emptyRedirect_ne_fault _ pa v s)

theorem physWrite_onFault (w : Width) (pa v : Word) (s : State) :
    OnFault (BankFault s pa w true) (physWrite w pa v s) := by
  rw [physWrite_eq]
  cases hbank : bankAt s.slots (pa.toNat / 0x10000) with
  | ram b => exact .of_ne_fault (ramWrite_ne_fault b w pa v s)
  | rom => exact .of_ok
  | videoMono | videoColor => exact .of_ne_fault commitStore_ne_fault
  | empty => exact emptyWrite_onFault hbank
  | busErr => exact busErr_onFault hbank
  | io =>
    dsimp only [bankWrite, ioWrite]
    split
    · exact io_onFault hbank (ioWriteState_faultFrame w pa v s)
    · exact .of_ok

theorem physStore_onFault (w : Width) (pa v : Word) (s : State) :
    OnFault (BankFault s pa w true) (physStore w pa v s) :=
  (physWrite_onFault w pa v s).mapAns _

end Sys2Proof.Machine
end

section
/-! PROOFS. Why a translation faults (R302 to R313, R347, R450): the one fact of the state at its start that each record
of a window or of a walk stands for. -/

namespace Sys2Proof.Machine

variable {α β : Type}

/-! ### Descriptors as a walk finds them (R130 to R134) -/

/-- The long word at an address has a property, unless an I/O slot is asked for it. -/
def FirstWordIs (s : State) (a : Word) (p : Word → Prop) : Prop :=
  bankAt s.slots (a.toNat / 0x10000) = .io ∨ ∃ d, physRead .long a s = (.ok d, s) ∧ p d

theorem FirstWordIs.of_read {s t : State} {a d : Word} {p : Word → Prop} (h : physRead .long a s = (.ok d, t))
    (hd : p d) : FirstWordIs s a p := by
  by_cases hio : bankAt s.slots (a.toNat / 0x10000) = .io
  · exact .inl hio
  · have hstate : (physRead .long a s).2 = s := by rw [physRead_state, slotOf, if_neg hio]
    rw [h] at hstate
    exact .inr ⟨d, by rw [h, show t = s from hstate], hd⟩

theorem FirstWordIs.imp {s : State} {a : Word} {p q : Word → Prop} (h : FirstWordIs s a p) (hpq : ∀ d, p d → q d) :
    FirstWordIs s a q :=
  h.imp_right fun ⟨d, hread, hd⟩ => ⟨d, hread, hpq d hd⟩

theorem FirstWordIs.of_sameMemory {s t : State} {a : Word} {p : Word → Prop} (h : SameMemory s t)
    (ht : FirstWordIs t a p) : FirstWordIs s a p := by
  by_cases hio : bankAt s.slots (slotOf a) = .io
  · exact .inl hio
  · rcases ht with hio' | ⟨d, hread, hd⟩
    · exact absurd (h.slots ▸ hio') hio
    · have hanswer : (physRead .long a s).1 = .ok d := by
        rw [← physRead_fst_congr h hio, hread]
      exact .of_read (Prod.ext hanswer rfl) hd

/-- The descriptors that a position admits (R134): an indirect one at the last level alone, a table before it alone. -/
inductive FitsPosition : DescPos → Desc → Prop
  | page {pos : DescPos} (p : PageDesc) : FitsPosition pos (.page p)
  | table (t : TableDesc) : FitsPosition .nonLast (.table t)
  | indirect (ia : Word) (size : DescSize) : FitsPosition .last (.indirect ia size)

/-- What a descriptor is, given its first long word: one that its position admits, or invalid for its type (R130). -/
inductive ReadsAs (d0 : Word) (pos : DescPos) : Desc → Prop
  | fits {d : Desc} (h : FitsPosition pos d) : ReadsAs d0 pos d
  | invalid (h : d0 &&& 3 = 0 ∨ (pos = .indirectTarget ∧ d0 &&& 3 ≠ 1)) : ReadsAs d0 pos .invalid

theorem descOf_readsAs (d0 : Word) (pos : DescPos) (p : PageDesc) (t : TableDesc) (ia : Word) :
    ReadsAs d0 pos (descOf (descType d0) pos p t ia) := by
  unfold descOf
  split
  · next hzero => exact .invalid (.inl ((descType_eq_iff d0 0 (by decide)).mp hzero))
  · split
    · exact .fits (.page p)
    · next hpage =>
      cases pos with
      | nonLast => exact .fits (.table t)
      | last => exact .fits (.indirect ia _)
      | indirectTarget => exact .invalid (.inr ⟨rfl, mt (descType_eq_iff d0 1 (by decide)).mpr hpage⟩)

theorem fetchDesc_readsAs {la : Word} {acc : Access} {level : Level} {a : Word} {size : DescSize} {pos : DescPos}
    {s t : State} {d : Desc} (h : fetchDesc la acc level a size pos s = (.ok d, t)) :
    ∃ d0 u, physRead .long a s = (.ok d0, u) ∧ ReadsAs d0 pos d := by
  obtain ⟨d0, u, hfirst, hrest⟩ := andThen_eq_ok.mp h
  refine ⟨d0, u, fetchLong_eq_ok.mp hfirst, ?_⟩
  cases size with
  | four =>
    cases hrest
    exact descOf_readsAs ..
  | eight =>
    obtain ⟨d1, v, -, hdecode⟩ := andThen_eq_ok.mp hrest
    cases hdecode
    exact descOf_readsAs ..

/-! ### The causes -/

/-- The facts for which a translation of `la` that starts in `s` faults, each with the record it gives. -/
inductive TranslationCause (la : Word) (acc : Access) (s : State) : FaultRecord → Prop
  | window (n : Fin 2) (r : TtResult) (hr : r = .noRead ∨ r = .noWrite)
      (h : ttMatch s.params (if n = 0 then s.regs.tt0 else s.regs.tt1) la acc = r) :
      TranslationCause la acc s (directionRecord s la acc n r)
  | root (h : (rootPointer acc s.regs).dt = 0) :
      TranslationCause la acc s (walkRecord s .mmuInvalidDescriptor la acc .root none)
  | fetch (level : Level) (a : Word) (h : BusErrorAt s a .long false) :
      TranslationCause la acc s { walkRecord s .busError la acc level (some a) with pa := some a }
  | descriptor (level : Level) (a : Word)
      (h : FirstWordIs s a fun d => d &&& 3 = 0 ∨ (level = .indirect ∧ d &&& 3 ≠ 1)) :
      TranslationCause la acc s (walkRecord s .mmuInvalidDescriptor la acc level (some a))
  | limit (level : Level) (a : Word) (h : s.params.limitCheck = .fault) :
      TranslationCause la acc s (walkRecord s .mmuLimitViolation la acc level (some a))
  | supervisor (level : Level) (a : Word) (h : s.params.supervisorCheck = true) (huser : acc.supervisor = false) :
      TranslationCause la acc s (walkRecord s .mmuSupervisorViolation la acc level (some a))

theorem BusErrorAt.of_frame {s t : State} {pa : Word} {w : Width} {write : Bool} (h : FaultFrame s t)
    (ht : BusErrorAt t pa w write) : BusErrorAt s pa w write := by
  rwa [BusErrorAt, h.slots, h.params] at ht

/-- What a walk did before it faults leaves every cause what it was at the start. -/
theorem TranslationCause.of_frame {la : Word} {acc : Access} {s t : State} {f : FaultRecord} (h : FetchFrame s t)
    (ht : TranslationCause la acc t f) : TranslationCause la acc s f := by
  have hrecord : walkRecord t = walkRecord s := by unfold walkRecord; rw [h.diagPc]
  cases ht with
  | window n r hr hmatch =>
    rw [directionRecord, h.diagPc]
    rw [h.params, h.regs] at hmatch
    exact .window n r hr hmatch
  | root hdt => rw [hrecord]; exact .root (h.regs ▸ hdt)
  | fetch level a hbus => rw [hrecord]; exact .fetch level a (hbus.of_frame h.faultFrame)
  | descriptor level a hword => rw [hrecord]; exact .descriptor level a (hword.of_sameMemory h.sameMemory)
  | limit level a hoption => rw [hrecord]; exact .limit level a (h.params ▸ hoption)
  | supervisor level a hoption huser => rw [hrecord]; exact .supervisor level a (h.params ▸ hoption) huser

/-! ### The walk -/

/-- A part of a translation: it keeps the frame of a walk, and faults for a cause. -/
structure FaultsForCause (la : Word) (acc : Access) (s : State) (x : Ans α × State) : Prop where
  frame : FetchFrame s x.2
  cause : ∀ f, x.1 = .fault f → TranslationCause la acc s f

section
variable {la : Word} {acc : Access} {s : State}

theorem FaultsForCause.of_ok (a : α) : FaultsForCause la acc s (.ok a, s) :=
  ⟨.refl s, by simp⟩

theorem FaultsForCause.of_refuse (r : RefuseReason) : FaultsForCause la acc s ((.refuse r, s) : Ans α × State) :=
  ⟨.refl s, by simp⟩

theorem FaultsForCause.of_fault {f : FaultRecord} (h : TranslationCause la acc s f) :
    FaultsForCause la acc s ((.fault f, s) : Ans α × State) :=
  ⟨.refl s, by rintro _ ⟨⟩; exact h⟩

theorem FaultsForCause.andThen {x : Ans α × State} {g : α → State → Ans β × State} (h : FaultsForCause la acc s x)
    (hg : ∀ a t, x = (.ok a, t) → FaultsForCause la acc t (g a t)) : FaultsForCause la acc s (andThen x g) := by
  obtain ⟨answer, t⟩ := x
  obtain ⟨hframe, hcause⟩ := h
  cases answer with
  | ok a => exact ⟨hframe.trans (hg a t rfl).frame, fun f hf => ((hg a t rfl).cause f hf).of_frame hframe⟩
  | fault f => exact ⟨hframe, by simpa using hcause⟩
  | refuse r => exact ⟨hframe, by simp⟩

variable (la acc s)

theorem fetchLong_faultsForCause (level : Level) (a : Word) :
    FaultsForCause la acc s (fetchLong la acc level a s) where
  frame := fetchLong_frame la acc level a s
  cause := by
    intro f hf
    rcases hread : physRead .long a s with ⟨d | e | r, u⟩
    · simp [fetchLong_ok hread] at hf
    · rw [fetchLong_fault hread] at hf
      cases hf
      exact .fetch level a ((physRead_onFault .long a s).leaves e u hread).bank
    · simp [fetchLong, hread] at hf

theorem fetchDesc_faultsForCause (level : Level) (a : Word) (size : DescSize) (pos : DescPos) :
    FaultsForCause la acc s (fetchDesc la acc level a size pos s) := by
  refine (fetchLong_faultsForCause la acc s level a).andThen fun d0 t _ => ?_
  cases size with
  | four => exact .of_ok _
  | eight => exact (fetchLong_faultsForCause la acc t level (a + 4)).andThen fun _ _ _ => .of_ok _

theorem limitCheck_faultsForCause (level : Level) (idx : Word) (lim : Limit) (a : Word) :
    FaultsForCause la acc s (limitCheck la acc level idx lim a s) where
  frame := limitCheck_frame ..
  cause := by
    intro f hf
    by_cases hviolated : limitViolated idx lim = true
    · cases hoption : s.params.limitCheck with
      | off => simp [limitCheck_off hoption] at hf
      | log => simp [limitCheck_log hviolated hoption] at hf
      | fault =>
        rw [limitCheck_fault hviolated hoption] at hf
        cases hf
        exact .limit level a hoption
    · simp [limitCheck_of_not_violated hviolated] at hf

theorem supervisorCheck_faultsForCause (level : Level) (d : Desc) (a : Word) :
    FaultsForCause la acc s (supervisorCheck la acc level d a s) := by
  unfold supervisorCheck
  split
  · next h =>
    obtain ⟨hoption, -, huser⟩ := h
    exact .of_fault (.supervisor level a hoption huser)
  · exact .of_ok ()

theorem invalidDescriptor_faultsForCause {level : Level} {a : Word}
    (h : FirstWordIs s a fun d => d &&& 3 = 0 ∨ (level = .indirect ∧ d &&& 3 ≠ 1)) :
    FaultsForCause (α := α) la acc s (.fault (invalidDescriptor la acc level (some a) s), s) :=
  .of_fault (.descriptor level a h)

/-- A descriptor that has been fetched was read from the memory that its check still sees. -/
theorem fetchDesc_firstWordIs {level : Level} {a : Word} {size : DescSize} {pos : DescPos} {t : State} {d : Desc}
    (h : fetchDesc la acc level a size pos s = (.ok d, t)) :
    FitsPosition pos d ∨ (d = .invalid ∧
      FirstWordIs t a fun d0 => d0 &&& 3 = 0 ∨ (pos = .indirectTarget ∧ d0 &&& 3 ≠ 1)) := by
  have hframe : FetchFrame s t := by simpa only [h] using fetchDesc_frame la acc level a size pos s
  obtain ⟨d0, u, hread, hd⟩ := fetchDesc_readsAs h
  cases hd with
  | fits hfits => exact .inl hfits
  | invalid hword => exact .inr ⟨rfl, (FirstWordIs.of_read hread hword).of_sameMemory hframe.sameMemory.symm⟩

theorem fetchCheck_faultsForCause (at' : WalkAt) (idx : Word) {pos : DescPos} (hpos : pos ≠ .indirectTarget)
    (level : Level) : FaultsForCause la acc s (fetchCheck la acc at' idx pos level s) := by
  refine (limitCheck_faultsForCause la acc s level idx _ _).andThen fun _ s1 _ => ?_
  refine (fetchDesc_faultsForCause la acc s1 level _ _ pos).andThen fun d s2 hfetch => ?_
  split
  · next hinvalid =>
    rcases fetchDesc_firstWordIs la acc s1 hfetch with hfits | ⟨-, hword⟩
    · cases hinvalid ▸ hfits
    · exact invalidDescriptor_faultsForCause la acc s2 (hword.imp fun d0 h => .inl (h.resolve_right fun ⟨htarget, _⟩ =>
        hpos htarget))
  · exact (supervisorCheck_faultsForCause la acc s2 level d _).andThen fun _ _ _ => .of_ok d

/-- The walk goes on only with a descriptor that the position admits (R305). -/
theorem fetchCheck_fitsPosition {at' : WalkAt} {idx : Word} {pos : DescPos} {level : Level} {t : State} {d : Desc}
    (h : fetchCheck la acc at' idx pos level s = (.ok d, t)) : FitsPosition pos d := by
  obtain ⟨_, s1, -, hrest⟩ := andThen_eq_ok.mp h
  obtain ⟨d', s2, hfetch, hcheck⟩ := andThen_eq_ok.mp hrest
  split at hcheck
  · cases hcheck
  · next hvalid =>
    obtain ⟨_, s3, -, hend⟩ := andThen_eq_ok.mp hcheck
    cases hend
    exact (fetchDesc_firstWordIs la acc s1 hfetch).resolve_right fun ⟨hinvalid, _⟩ => hvalid hinvalid

theorem fetchCheck_andThen_faultsForCause (at' : WalkAt) (idx : Word) {pos : DescPos} (hpos : pos ≠ .indirectTarget)
    (level : Level) {g : Desc → State → Ans α × State}
    (hg : ∀ d t, FitsPosition pos d → FaultsForCause la acc t (g d t)) :
    FaultsForCause la acc s (andThen (fetchCheck la acc at' idx pos level s) g) :=
  (fetchCheck_faultsForCause la acc s at' idx hpos level).andThen fun d t hok =>
    hg d t (fetchCheck_fitsPosition la acc s hok)

theorem fetchIndirect_faultsForCause (ia : Word) (size : DescSize) :
    FaultsForCause la acc s (fetchIndirect la acc ia size s) := by
  refine (fetchDesc_faultsForCause la acc s .indirect ia size .indirectTarget).andThen fun d t hfetch => ?_
  rcases fetchDesc_firstWordIs la acc s hfetch with hfits | ⟨rfl, hword⟩
  · cases hfits with
    | page p => exact (supervisorCheck_faultsForCause la acc t .indirect (.page p) ia).andThen fun _ _ _ => .of_ok p
  · exact invalidDescriptor_faultsForCause la acc t (hword.imp fun d0 h => h.imp_right fun ⟨_, hpage⟩ => ⟨rfl, hpage⟩)

theorem walkLast_faultsForCause (l : TableLevel) (at' : WalkAt) :
    FaultsForCause la acc s (walkLast la acc l at' s) := by
  refine fetchCheck_andThen_faultsForCause la acc s at' _ (by decide) _ fun d t hfits => ?_
  cases hfits with
  | page p => exact .of_ok _
  | indirect ia size => exact (fetchIndirect_faultsForCause la acc t ia size).andThen fun _ _ _ => .of_ok _

theorem walkLevels_faultsForCause (ls : List TableLevel) (at' : WalkAt) :
    FaultsForCause la acc s (walkLevels la acc ls at' s) := by
  induction ls generalizing at' s with
  | nil => exact .of_refuse _
  | cons l ls ih =>
    unfold walkLevels
    split
    · exact walkLast_faultsForCause la acc s l at'
    · refine fetchCheck_andThen_faultsForCause la acc s at' _ (by decide) _ fun d t hfits => ?_
      cases hfits with
      | page p => exact .of_ok _
      | table desc => exact ih t (nextTable at' desc)

theorem walkTables_faultsForCause (at' : WalkAt) : FaultsForCause la acc s (walkTables la acc at' s) := by
  unfold walkTables
  split
  · exact walkLevels_faultsForCause la acc s _ at'
  · refine fetchCheck_andThen_faultsForCause la acc s at' _ (by decide) _ fun d t hfits => ?_
    cases hfits with
    | page p => exact .of_ok _
    | table desc => exact walkLevels_faultsForCause la acc t _ (nextTable at' desc)

theorem walk_faultsForCause : FaultsForCause la acc s (walk la acc s) := by
  unfold walk
  dsimp only
  split
  · next hdt => exact .of_fault (.root hdt)
  · split
    · exact .of_ok _
    · exact walkTables_faultsForCause la acc s _

/-! ### The windows and the whole translation (R347, R401) -/

theorem ttOutcome_violation {n : Fin 2} {via : Via} {tt : TtDecoded} {r : TtResult} {f : FaultRecord}
    (h : ttOutcome n via tt la acc s.diagPc r = .violation f) :
    (r = .noRead ∨ r = .noWrite) ∧ f = directionRecord s la acc n r := by
  cases r with
  | noMatch | okMatch => cases h
  | noRead => cases h; exact ⟨.inl rfl, rfl⟩
  | noWrite => cases h; exact ⟨.inr rfl, rfl⟩

theorem ttResolve_violation {f : FaultRecord} (h : ttResolve la acc s = .violation f) :
    TranslationCause la acc s f := by
  unfold ttResolve at h
  split at h
  · obtain ⟨hr, rfl⟩ := ttOutcome_violation la acc s h
    exact .window 1 _ hr rfl
  · obtain ⟨hr, rfl⟩ := ttOutcome_violation la acc s h
    exact .window 0 _ hr rfl

theorem locate_faultsForCause : FaultsForCause la acc s (locate la acc s) := by
  unfold locate
  split
  · exact .of_ok _
  · next hviolation => exact .of_fault (ttResolve_violation la acc s hviolation)
  · split
    · exact .of_ok _
    · split
      · exact .of_refuse _
      · unfold locatePaged
        split
        · exact .of_ok _
        · exact (walk_faultsForCause la acc s).andThen fun _ _ _ => .of_ok _

end

end Sys2Proof.Machine
end

section
/-! PROOFS. Why a command faults and what it leaves when it does (R450, R452, R453): the causes and frames of its parts,
put together, and read off as the statements about faults. -/

namespace Sys2Proof.Machine

variable {α : Type}

/-! ### Accesses of logical addresses -/

/-- Why LREAD or LWRITE faults: for its translation, or for the bank at the address found, whose record gains `la` and
`acc` (R451). -/
inductive AccessCause (la : Word) (acc : Access) (s : State) : FaultRecord → Prop
  | translation {f : FaultRecord} (h : TranslationCause la acc s f) : AccessCause la acc s f
  | bank (a : Word) (w : Width) (write : Bool) (h : BusErrorAt s a w write) :
      AccessCause la acc s (withLogical la acc (busErrorRecord s a w write))

/-- A fault of a command: its cause, and what it leaves. -/
structure CausedFault (cause : FaultRecord → Prop) (s : State) (f : FaultRecord) (u : State) : Prop where
  cause : cause f
  frame : FaultFrame s u

section
variable {la : Word} {acc : Access} {s : State}

theorem FaultsForCause.onFault {x : Ans α × State} (h : FaultsForCause la acc s x) :
    OnFault (CausedFault (AccessCause la acc s) s) x := by
  refine ⟨fun f u hx => ?_⟩
  obtain ⟨hframe, hcause⟩ := h
  rw [hx] at hframe hcause
  exact ⟨.translation (hcause f rfl), hframe.faultFrame⟩

/-- The bank's fault after a translation: the translation and its insertion leave every bank as it was. -/
theorem physicalStage_onFault {t : Translation} {a : Word} {w : Width} {write : Bool} {v : State}
    {access : State → Ans α × State} (hframe : FaultFrame s v)
    (haccess : ∀ u, OnFault (BankFault u a w write) (access u)) :
    OnFault (CausedFault (AccessCause la acc s) s) (physicalStage la acc t access v) := by
  rcases physicalStage_cases la acc t access v with ⟨r, -, h⟩ | ⟨-, h⟩ <;> rw [h]
  · exact .of_refuse
  · have hfilled := hframe.trans (fillAtc_faultFrame la acc t v)
    refine ((haccess _).imp ?_).mapFault
    rintro _ u ⟨rfl, hbank, hleft⟩
    have hrecord : busErrorRecord (fillAtc la acc t v) a w write = busErrorRecord s a w write := by
      rw [busErrorRecord, hfilled.diagPc]; rfl
    rw [hrecord]
    exact ⟨.bank a w write (hbank.of_frame hfilled), hfilled.trans hleft⟩

theorem translatedAccess_onFault {w : Width} {write : Bool} {access : Translation → State → Ans α × State}
    (haccess : ∀ t u, OnFault (BankFault u t.pa w write) (access t u)) :
    OnFault (CausedFault (AccessCause la acc s) s) (translatedAccess la acc access s) := by
  refine (locate_faultsForCause la acc s).onFault.andThen fun t v hlocate => ?_
  have hframe : FetchFrame s v := by simpa only [hlocate] using locate_frame la acc s
  exact physicalStage_onFault hframe.faultFrame (haccess t)

theorem logicalRead_onFault (w : Width) :
    OnFault (CausedFault (AccessCause la acc s) s) (logicalRead w la acc s) := by
  cases hcross : pageCross w la acc s with
  | true => rw [logicalRead_of_pageCross hcross]; exact .of_refuse
  | false =>
    rw [logicalRead_eq_translatedAccess hcross]
    exact translatedAccess_onFault fun t u => physRead_onFault w t.pa u

theorem logicalWrite_onFault (w : Width) (v : Word) :
    OnFault (CausedFault (AccessCause la acc s) s) (logicalWrite w la acc v s) := by
  cases hcross : pageCross w la acc s with
  | true => rw [logicalWrite_of_pageCross hcross]; exact .of_refuse
  | false =>
    rw [logicalWrite_eq_translatedAccess hcross]
    exact translatedAccess_onFault fun t u => physStore_onFault w t.pa v u

theorem translate_onFault : OnFault (CausedFault (AccessCause la acc s) s) (translate la acc s) :=
  (locate_faultsForCause la acc s).onFault.andThen fun _ _ _ => .of_ok

theorem walkCommand_onFault : OnFault (CausedFault (AccessCause la acc s) s) (walkCommand acc la s) := by
  unfold walkCommand
  split
  · exact .of_refuse
  · exact (walk_faultsForCause la acc s).onFault.mapAns _

end

/-! ### Commands -/

/-- Why a command faults (R450). -/
inductive CommandCause (s : State) : Instr → FaultRecord → Prop
  | toHost (a : Word) (h : storeOf s (bankAt s.slots (a.toNat / 0x10000)) = none) :
      CommandCause s (.toHost a) (bareFault .busError s.diagPc)
  | physical {i : Instr} (a : Word) (w : Width) (write : Bool) (h : BusErrorAt s a w write) :
      CommandCause s i (busErrorRecord s a w write)
  | access {i : Instr} {la : Word} {acc : Access} {f : FaultRecord} (hi : mayWalk i = true)
      (h : AccessCause la acc s f) : CommandCause s i f

theorem BankFault.causedFault {s u : State} {a : Word} {w : Width} {write : Bool} {f : FaultRecord} (i : Instr)
    (h : BankFault s a w write f u) : CausedFault (CommandCause s i) s f u := by
  obtain ⟨rfl, hbank, hframe⟩ := h
  exact ⟨.physical a w write hbank, hframe⟩

theorem CausedFault.command {la : Word} {acc : Access} {s u : State} {f : FaultRecord} {i : Instr}
    (hi : mayWalk i = true) (h : CausedFault (AccessCause la acc s) s f u) : CausedFault (CommandCause s i) s f u :=
  ⟨.access hi h.cause, h.frame⟩

/-- TO_HOST faults at the banks that have no store (R234, R236, R240). -/
theorem bankToHost_onFault (pa : Word) (s : State) : OnFault (CausedFault (CommandCause s (.toHost pa)) s)
    (bankToHost (bankAt s.slots (slotOf pa)) pa s, s) := by
  have hnone : storeOf s (bankAt s.slots (slotOf pa)) = none → OnFault (α := HostRef)
      (CausedFault (CommandCause s (.toHost pa)) s) (.fault (bareFault .busError s.diagPc), s) := fun h =>
    .of_fault ⟨.toHost pa h, .refl s⟩
  cases hbank : bankAt s.slots (slotOf pa) with
  | ram b =>
    dsimp only [bankToHost]
    split
    · exact .of_ok
    · exact .of_refuse
  | rom | videoMono | videoColor => exact .of_ok
  | empty | busErr | io => exact hnone (by rw [hbank]; rfl)

theorem lookupCommand_onFault {P : FaultRecord → State → Prop} (acc : Access) (la : Word) (s : State) :
    OnFault P (lookupCommand acc la s) := by
  unfold lookupCommand
  split
  · exact .of_refuse
  · exact .of_ok

theorem insertCommand_onFault {P : FaultRecord → State → Prop} (sup dat ci wp m : Bool) (la pa : Word) (s : State) :
    OnFault P (insertCommand sup dat ci wp m la pa s) := by
  unfold insertCommand
  split
  · exact .of_refuse
  · exact .of_ok

theorem mapRange_onFault {P : FaultRecord → State → Prop} (bank : BankRef) (start count : Word) (s : State) :
    OnFault P (mapRange bank start count s) := by
  unfold mapRange
  split
  · exact .of_refuse
  · split
    · exact .of_refuse
    · exact .of_ok

theorem restore_onFault {P : FaultRecord → State → Prop} (view : List Word) (s : State) :
    OnFault P (restore view s) := by
  unfold restore
  split
  · exact .of_ok
  · exact .of_refuse

theorem coldReset_onFault {P : FaultRecord → State → Prop} (s : State) : OnFault P (coldReset s) := by
  unfold coldReset
  split
  · exact .of_ok
  · exact .of_refuse

theorem operation_onFault (i : Instr) (s : State) : OnFault (CausedFault (CommandCause s i) s) (operation i s) := by
  cases i with
  | translate => exact (translate_onFault.imp fun _ _ => CausedFault.command rfl).mapAns _
  | walk => exact walkCommand_onFault.imp fun _ _ => CausedFault.command rfl
  | lread8 | lread16 | lread32 => exact ((logicalRead_onFault _).imp fun _ _ => CausedFault.command rfl).mapAns _
  | lwrite8 | lwrite16 | lwrite32 => exact (logicalWrite_onFault ..).imp fun _ _ => CausedFault.command rfl
  | pread8 | pread16 | pread32 => exact ((physRead_onFault ..).imp fun _ _ => BankFault.causedFault _).mapAns _
  | pwrite8 | pwrite16 | pwrite32 => exact (physStore_onFault ..).imp fun _ _ => BankFault.causedFault _
  | toHost pa => exact (bankToHost_onFault pa s).mapAns _
  | atcLookup acc la => exact lookupCommand_onFault acc la s
  | atcInsert => exact insertCommand_onFault ..
  | map => exact mapRange_onFault ..
  | snapRestore view => exact restore_onFault view s
  | coldReset => exact coldReset_onFault s
  | wrTc | wrSrp | wrCrp | wrTt0 | wrTt1 | wrMmusr | rdTc | rdSrp | rdCrp | rdTt0 | rdTt1 | rdMmusr => exact .of_ok
  | tt0Match | tt1Match | flushAll | flushFc | flushPage => exact .of_ok
  | boundsCheck | regionName | queryDecoded | snapSave | mmuReset => exact .of_ok

/-- A fault of a command is that of its operation, reported and returned with the value the command carries. -/
theorem operation_fault_of_reply {i : Instr} {s t : State} {f : FaultRecord} {c : Option Word}
    (h : exec i s = .next t) (hr : t.reply = .fault f c) :
    ∃ u, CausedFault (CommandCause s i) s f u ∧ c = carriedBy i f ∧ t = faulted u f c := by
  rw [exec_eq_deliver] at h
  rcases hop : operation i s with ⟨r | e | r, u⟩ <;> rw [hop] at h <;> cases h <;> cases hr
  exact ⟨u, (operation_onFault i s).leaves f u hop, rfl, rfl⟩

/-! ### What the causes say of a record -/

section
variable {la : Word} {acc : Access} {s : State} {i : Instr} {f : FaultRecord}

theorem TranslationCause.context (h : TranslationCause la acc s f) :
    f.diagPc = s.diagPc ∧ f.la = some la ∧ f.acc = some acc := by
  cases h <;> exact ⟨rfl, rfl, rfl⟩

theorem CommandCause.diagPc_eq (h : CommandCause s i f) : f.diagPc = s.diagPc := by
  cases h with
  | toHost | physical => rfl
  | access _ h =>
    cases h with
    | translation h => exact h.context.1
    | bank => rfl

/-- Every kind but a bus error comes of a translation. -/
theorem CommandCause.of_ne_busError (h : CommandCause s i f) (hk : f.kind ≠ .busError) :
    mayWalk i = true ∧ ∃ la acc, TranslationCause la acc s f := by
  cases h with
  | toHost | physical => exact absurd rfl hk
  | access hi h =>
    cases h with
    | translation h => exact ⟨hi, _, _, h⟩
    | bank => exact absurd rfl hk

theorem TranslationCause.of_busError (h : TranslationCause la acc s f) (hk : f.kind = .busError) :
    ∃ a, f.pa = some a ∧ f.descAddr = some a ∧ f.level ≠ none ∧ BusErrorAt s a .long false := by
  cases h with
  | fetch level a h => exact ⟨a, rfl, rfl, nofun, h⟩
  | window | root | descriptor | limit | supervisor => cases hk

theorem CommandCause.of_busError (h : CommandCause s i f) (hk : f.kind = .busError) :
    (∃ a, i = .toHost a ∧ storeOf s (bankAt s.slots (a.toNat / 0x10000)) = none)
    ∨ (∃ a, f.pa = some a ∧ f.descAddr = some a ∧ f.level ≠ none ∧ mayWalk i = true ∧ BusErrorAt s a .long false)
    ∨ ∃ a w write, f.pa = some a ∧ f.w = some w ∧ f.write = some write ∧ BusErrorAt s a w write := by
  cases h with
  | toHost a h => exact .inl ⟨a, rfl, h⟩
  | physical a w write h => exact .inr (.inr ⟨a, w, write, rfl, rfl, rfl, h⟩)
  | access hi h =>
    cases h with
    | translation h =>
      obtain ⟨a, hpa, hdesc, hlevel, hbank⟩ := h.of_busError hk
      exact .inr (.inl ⟨a, hpa, hdesc, hlevel, hi, hbank⟩)
    | bank a w write h => exact .inr (.inr ⟨a, w, write, rfl, rfl, rfl, h⟩)

theorem TranslationCause.of_invalidDescriptor (h : TranslationCause la acc s f)
    (hk : f.kind = .mmuInvalidDescriptor) :
    (f.level = some .root ∧ f.descAddr = none ∧ (rootPointer acc s.regs).dt = 0)
    ∨ ∃ a, f.descAddr = some a
      ∧ FirstWordIs s a fun d => d &&& 3 = 0 ∨ (f.level = some .indirect ∧ d &&& 3 ≠ 1) := by
  cases h with
  | root h => exact .inl ⟨rfl, rfl, h⟩
  | descriptor level a h =>
    exact .inr ⟨a, rfl, h.imp fun d hd => hd.imp_right fun ⟨hlevel, hpage⟩ => ⟨congrArg some hlevel, hpage⟩⟩
  | window | fetch | limit | supervisor => cases hk

theorem TranslationCause.of_limitViolation (h : TranslationCause la acc s f) (hk : f.kind = .mmuLimitViolation) :
    s.params.limitCheck = .fault := by
  cases h with
  | limit level a h => exact h
  | window | root | fetch | descriptor | supervisor => cases hk

theorem TranslationCause.of_supervisorViolation (h : TranslationCause la acc s f)
    (hk : f.kind = .mmuSupervisorViolation) : s.params.supervisorCheck = true ∧ acc.supervisor = false := by
  cases h with
  | supervisor level a h huser => exact ⟨h, huser⟩
  | window | root | fetch | descriptor | limit => cases hk

theorem TranslationCause.of_directionViolation (h : TranslationCause la acc s f)
    (hk : f.kind = .mmuDirectionViolation) : ∃ n r, f = directionRecord s la acc n r ∧ (r = .noRead ∨ r = .noWrite)
      ∧ ttMatch s.params (if n = 0 then s.regs.tt0 else s.regs.tt1) la acc = r := by
  cases h with
  | window n r hr h => exact ⟨n, r, rfl, hr, h⟩
  | root | fetch | descriptor | limit | supervisor => cases hk

end

/-- Settles O49: each kind of a record has the causes that give it, and every fault of a command has its cause. -/
theorem faultKindsUnderTheirOptions : Obligations.FaultKindsUnderTheirOptions := by
  intro i s t f c h hr
  obtain ⟨u, ⟨hcause, -⟩, -, -⟩ := operation_fault_of_reply h hr
  have htranslation : f.kind ≠ .busError → ∃ la acc, TranslationCause la acc s f := fun hk =>
    (hcause.of_ne_busError hk).2
  refine ⟨hcause.diagPc_eq, fun hk => ?_, hcause.of_busError, fun hk => ?_, fun hk => ?_, fun hk => ?_, fun hk => ?_⟩
  · obtain ⟨hi, la, acc, hc⟩ := hcause.of_ne_busError hk
    obtain ⟨-, hla, hacc⟩ := hc.context
    exact ⟨hi, hla ▸ nofun, hacc ▸ nofun⟩
  · obtain ⟨la, acc, hc⟩ := htranslation (hk ▸ nofun)
    obtain ⟨-, -, hacc⟩ := hc.context
    exact ⟨acc, hacc, hc.of_invalidDescriptor hk⟩
  · obtain ⟨la, acc, hc⟩ := htranslation (hk ▸ nofun)
    exact hc.of_limitViolation hk
  · obtain ⟨la, acc, hc⟩ := htranslation (hk ▸ nofun)
    obtain ⟨-, -, hacc⟩ := hc.context
    obtain ⟨hoption, huser⟩ := hc.of_supervisorViolation hk
    exact ⟨hoption, acc, hacc, huser⟩
  · obtain ⟨la, acc, hc⟩ := htranslation (hk ▸ nofun)
    exact ⟨la, acc, hc.of_directionViolation hk⟩

/-! ### The carried value (R453) -/

/-- The reads carry what R453 says, and every other command nothing. -/
theorem carriedBy_cases (i : Instr) :
    (carriedBy i = readCarries ∧ ∃ w a, i = preadOf w a ∨ ∃ sup dat, i = lreadOf w sup dat a)
      ∨ carriedBy i = carriesNone := by
  cases i with
  | pread8 a => exact .inl ⟨rfl, .byte, a, .inl rfl⟩
  | pread16 a => exact .inl ⟨rfl, .word, a, .inl rfl⟩
  | pread32 a => exact .inl ⟨rfl, .long, a, .inl rfl⟩
  | lread8 sup dat la => exact .inl ⟨rfl, .byte, la, .inr ⟨sup, dat, rfl⟩⟩
  | lread16 sup dat la => exact .inl ⟨rfl, .word, la, .inr ⟨sup, dat, rfl⟩⟩
  | lread32 sup dat la => exact .inl ⟨rfl, .long, la, .inr ⟨sup, dat, rfl⟩⟩
  | _ => exact .inr rfl

theorem carriedBy_preadOf (w : Width) (pa : Word) : carriedBy (preadOf w pa) = readCarries := by
  cases w <;> rfl

theorem carriedBy_lreadOf (w : Width) (sup dat : Bool) (la : Word) :
    carriedBy (lreadOf w sup dat la) = readCarries := by
  cases w <;> rfl

theorem mayWalk_preadOf (w : Width) (pa : Word) : mayWalk (preadOf w pa) = false := by
  cases w <;> rfl

theorem readCarries_of_busError {f : FaultRecord} (h : f.kind = .busError) : readCarries f = some 0 := if_pos h

theorem carriedBy_eq_some_or_none (i : Instr) (f : FaultRecord) : carriedBy i f = some 0 ∨ carriedBy i f = none := by
  rcases carriedBy_cases i with ⟨h, -⟩ | h <;> rw [h]
  · exact ite_eq_or_eq ..
  · exact .inr rfl

theorem busError_of_carriedBy {i : Instr} {f : FaultRecord} (h : carriedBy i f = some 0) :
    f.kind = .busError ∧ ∃ w a, i = preadOf w a ∨ ∃ sup dat, i = lreadOf w sup dat a := by
  rcases carriedBy_cases i with ⟨hcarries, hread⟩ | hcarries <;> rw [hcarries] at h
  · refine ⟨by_contra fun hk => ?_, hread⟩
    rw [readCarries, if_neg hk] at h
    cases h
  · cases h

/-- PREAD translates nothing, so that its one fault is the bank's bus error. -/
theorem CommandCause.busError_of_preadOf {s : State} {w : Width} {pa : Word} {f : FaultRecord}
    (h : CommandCause s (preadOf w pa) f) : f.kind = .busError := by
  by_contra hk
  obtain ⟨hwalk, -⟩ := h.of_ne_busError hk
  rw [mayWalk_preadOf] at hwalk
  cases hwalk

/-- Settles O47: the frame of a faulting operation, which its end keeps, and the value its command carries. -/
theorem faultsChangeNoRegisterTableOrStore : Obligations.FaultsChangeNoRegisterTableOrStore := by
  intro i s t f c h hr
  obtain ⟨u, ⟨hcause, hframe⟩, rfl, rfl⟩ := operation_fault_of_reply h hr
  refine ⟨hframe.regs, hframe.slots, hframe.stores, hframe.params, hframe.loader, hframe.bootOverlay, hframe.diagPc,
    hframe.inbox, hframe.refused, carriedBy_eq_some_or_none i f, fun hc => (busError_of_carriedBy hc).1,
    fun hc => (busError_of_carriedBy hc).2, ?_, ?_⟩
  · rintro w pa rfl
    rw [carriedBy_preadOf, readCarries_of_busError hcause.busError_of_preadOf]
  · rintro w sup dat la rfl hk
    rw [carriedBy_lreadOf, readCarries_of_busError hk]

/-! ### The log (R452) -/

/-- An event that is no report of a fault. -/
def isNoReport : DiagEvent → Bool
  | .faultReported _ => false
  | .configWarning _ _ _ | .limitViolationLogged _ _ _ _ _ | .romWriteDiscarded _ _ _ _ | .decodedRegister _ _ _ => true

/-- The log has grown, and by no report of a fault. -/
def LogsNoReport (s t : State) : Prop := ∃ l, t.diagLog = s.diagLog ++ l ∧ ∀ e ∈ l, isNoReport e = true

theorem isNoReport_of_isLimitEvent {e : DiagEvent} (h : isLimitEvent e = true) : isNoReport e = true := by
  cases e <;> trivial

theorem LogsNoReport.of_eq {s t : State} (h : t.diagLog = s.diagLog) : LogsNoReport s t := ⟨[], by simp [h]⟩

theorem LogsNoReport.trans {s t u : State} (h : LogsNoReport s t) (g : LogsNoReport t u) : LogsNoReport s u :=
  appended_trans h g

theorem log_logsNoReport {e : DiagEvent} (h : isNoReport e = true) (s : State) : LogsNoReport s (s.log e) :=
  ⟨[e], rfl, by simpa using h⟩

theorem FetchFrame.logsNoReport {s t : State} (h : FetchFrame s t) : LogsNoReport s t := by
  obtain ⟨l, hl, hlimit⟩ := h.log
  exact ⟨l, hl, fun e he => isNoReport_of_isLimitEvent (hlimit e he)⟩

section
variable (w : Width) (pa v la : Word) (acc : Access) (s : State)

theorem physRead_logsNoReport : LogsNoReport s (physRead w pa s).2 := by
  rw [physRead_state]
  split <;> exact .of_eq rfl

theorem physWrite_logsNoReport : LogsNoReport s (physWrite w pa v s).2 := by
  rcases physWrite_state w pa v s with ⟨m, -, h⟩ | h | h <;> rw [h]
  · exact .of_eq rfl
  · exact log_logsNoReport rfl s
  · exact .of_eq rfl

theorem translate_logsNoReport : LogsNoReport s (translate la acc s).2 := by
  have hwalk := (walk_frame la acc s).logsNoReport
  rcases translate_state la acc s with h | h | ⟨r, -, h⟩ <;> rw [h]
  · exact .of_eq rfl
  · exact hwalk
  · exact hwalk.trans (.of_eq (atcInsert_diagLog ..))

theorem logicalRead_logsNoReport : LogsNoReport s (logicalRead w la acc s).2 := by
  have htranslate := translate_logsNoReport la acc s
  rcases logicalRead_state w la acc s with h | h | h | ⟨pa, h⟩ <;> rw [h]
  · exact .of_eq rfl
  · exact (locate_frame la acc s).logsNoReport
  · exact htranslate
  · exact htranslate.trans (.of_eq rfl)

theorem logicalWrite_logsNoReport : LogsNoReport s (logicalWrite w la acc v s).2 := by
  rcases logicalWrite_state w la acc v s with h | h | ⟨t, u, htranslate, h⟩ <;> rw [h]
  · exact .of_eq rfl
  · exact (locate_frame la acc s).logsNoReport
  · have hu := translate_logsNoReport la acc s
    rw [htranslate] at hu
    exact hu.trans (physWrite_logsNoReport w t.pa v u)

theorem insertCommand_logsNoReport (sup dat ci wp m : Bool) :
    LogsNoReport s (insertCommand sup dat ci wp m la pa s).2 := by
  unfold insertCommand
  split
  · exact .of_eq rfl
  · exact .of_eq (atcInsert_diagLog ..)

theorem logTcWrite_logsNoReport : LogsNoReport s (logTcWrite s v) := by
  unfold logTcWrite
  split
  · exact log_logsNoReport rfl s
  · exact (log_logsNoReport rfl s).trans (log_logsNoReport rfl _)

theorem mapRange_logsNoReport (bank : BankRef) (start count : Word) :
    LogsNoReport s (mapRange bank start count s).2 := by
  unfold mapRange
  split
  · exact .of_eq rfl
  · split <;> exact .of_eq rfl

theorem restore_logsNoReport (view : List Word) : LogsNoReport s (restore view s).2 := by
  unfold restore
  split <;> exact .of_eq rfl

end

/-- No operation reports a fault before its end; a cold reset empties the log. -/
theorem operation_logsNoReport {i : Instr} (hi : i ≠ .coldReset) (s : State) : LogsNoReport s (operation i s).2 := by
  cases i with
  | coldReset => exact absurd rfl hi
  | wrTc v =>
    have hregs : LogsNoReport s (s.setRegs { s.regs with tcRaw := v, tc := decodeTc v }) := .of_eq rfl
    exact hregs.trans (logTcWrite_logsNoReport ..)
  | wrSrp | wrCrp | wrTt0 | wrTt1 | wrMmusr => exact log_logsNoReport rfl (s.setRegs _)
  | translate acc la => rw [operation, mapAns_snd]; exact translate_logsNoReport la acc s
  | walk acc la => exact (walkCommand_frame acc la s).logsNoReport
  | atcInsert => exact insertCommand_logsNoReport ..
  | lread8 | lread16 | lread32 => rw [operation, mapAns_snd]; exact logicalRead_logsNoReport ..
  | lwrite8 | lwrite16 | lwrite32 => exact logicalWrite_logsNoReport ..
  | pread8 | pread16 | pread32 => rw [operation, mapAns_snd]; exact physRead_logsNoReport ..
  | pwrite8 | pwrite16 | pwrite32 => rw [operation, physStore, mapAns_snd]; exact physWrite_logsNoReport ..
  | map => exact mapRange_logsNoReport ..
  | snapRestore view => exact restore_logsNoReport s view
  | atcLookup acc la => rw [operation, lookupCommand_snd]; exact .of_eq rfl
  | toHost => rw [operation, mapAns_snd]; exact .of_eq rfl
  | rdTc | rdSrp | rdCrp | rdTt0 | rdTt1 | rdMmusr | tt0Match | tt1Match | flushAll | flushFc | flushPage
  | boundsCheck | regionName | queryDecoded | snapSave | mmuReset => exact .of_eq rfl

/-- The end of an operation that does not fault writes no log. -/
theorem deliver_diagLog_of_no_fault {c : FaultRecord → Option Word} {x : Ans Result × State} {t : State}
    (h : deliver c x = .next t) (hno : ∀ f c, t.reply ≠ .fault f c) : t.diagLog = x.2.diagLog := by
  obtain ⟨r | f | r, u⟩ := x <;> cases h
  · rfl
  · exact absurd rfl (hno f _)
  · rfl

/-- Settles O48: only the end of an operation reports a fault, and a faulting one logged limit events before it. -/
theorem faultIsReportedOnceAndLast : Obligations.FaultIsReportedOnceAndLast := by
  intro i s t h
  refine ⟨fun f c hr => ?_, fun hno hi => ?_⟩
  · obtain ⟨u, ⟨-, hframe⟩, -, rfl⟩ := operation_fault_of_reply h hr
    obtain ⟨l, hl, hlimit⟩ := hframe.log
    exact ⟨l, by rw [faulted, hl], hlimit⟩
  · obtain ⟨l, hl, hreports⟩ := operation_logsNoReport hi s
    refine ⟨l, (deliver_diagLog_of_no_fault (exec_eq_deliver i s ▸ h) hno).trans hl, ?_⟩
    rintro e he f rfl
    cases hreports _ he

end Sys2Proof.Machine
end

section
/-! PROOFS. The resets (R500 to R503): what MMU_RESET leaves, that every address then translates to itself, and the
stores, table and registers of a cold reset. -/

namespace Sys2Proof.Machine

/-! ### MMU_RESET (R500, R501) -/

theorem drawnQuad_of_fixed {d : Drawable Quad} {v : Quad} (h : d = .fixed v) (k : Nat) : drawnQuad d k = v := by
  rw [h]; rfl

theorem drawnHalf_of_fixed {d : Drawable Half} {v : Half} (h : d = .fixed v) (k : Nat) : drawnHalf d k = v := by
  rw [h]; rfl

theorem exec_mmuReset (s : State) : exec .mmuReset s = .next (answered (mmuReset s) .unit) :=
  exec_eq_deliver .mmuReset s

/-- Settles O55: `mmuReset` written out; a parameter that is fixed is no draw. -/
theorem mmuResetValues : Obligations.MmuResetValues :=
  ⟨decodeReadsBackEncode .mmuReset rfl, fun s => ⟨drawnQuad s.params.resetSrp s.draws,
    drawnQuad s.params.resetCrp (s.draws + 1), drawnHalf s.params.resetMmusr (s.draws + 2),
    fun _ h => drawnQuad_of_fixed h _, fun _ h => drawnQuad_of_fixed h _, fun _ h => drawnHalf_of_fixed h _,
    exec_mmuReset s⟩⟩

section
variable {acc : Access} {la : Word} {s : State}

theorem exec_walk_unmodelled (h : s.regs.tc.tcUnmodelled = true) :
    exec (.walk acc la) s = .next (refusedWith s .tcUnmodelled) := by
  rw [exec_eq_deliver, operation, walkCommand, if_pos h]
  rfl

theorem exec_atcLookup_unmodelled (h : s.regs.tc.tcUnmodelled = true) :
    exec (.atcLookup acc la) s = .next (refusedWith s .tcUnmodelled) := by
  rw [exec_eq_deliver, operation, lookupCommand, if_pos h]
  rfl

theorem exec_atcInsert_unmodelled (h : s.regs.tc.tcUnmodelled = true) (sup dat ci wp m : Bool) (pa : Word) :
    exec (.atcInsert sup dat ci wp m la pa) s = .next (refusedWith s .tcUnmodelled) := by
  rw [exec_eq_deliver, operation, insertCommand, if_pos h]
  rfl

end

/-- A TC of 0: translation off, and neither a sum of 32 nor a page size that is modelled (R266, R500). -/
theorem decodeTc_zero :
    (decodeTc 0).enabled = false ∧ (decodeTc 0).sumOk = false ∧ (decodeTc 0).tcUnmodelled = true := by
  decide

/-- Settles O56: a TC of 0 turns translation off and is not modelled, and windows of 0 match nothing. -/
theorem resetTranslatesToItself : Obligations.ResetTranslatesToItself := by
  intro s t acc la pa sup dat ci wp m h
  rw [exec_mmuReset] at h
  cases h
  obtain ⟨hdisabled, hsum, hunmodelled⟩ := decodeTc_zero
  have hwindow : NoWindow (answered (mmuReset s) .unit) la acc :=
    ⟨ttMatch_of_disabled rfl .., ttMatch_of_disabled rfl ..⟩
  exact ⟨hsum, exec_translate_of_ok (translate_of_identity hwindow hdisabled), exec_walk_unmodelled hunmodelled,
    exec_atcLookup_unmodelled hunmodelled, exec_atcInsert_unmodelled hunmodelled ..⟩

/-! ### The stores of a cold reset (R502) -/

theorem imageMemory_append_singleton (size : Nat) (img : Image) (c : Host.Cell) : imageMemory size (img ++ [c])
    = if c.1 < size then writeByte (imageMemory size img) c.1 c.2 else imageMemory size img := by
  simp only [imageMemory, List.foldl_append, List.foldl_cons, List.foldl_nil]

theorem imageByte_append_singleton (img : Image) (c : Host.Cell) (j : Nat) :
    imageByte (img ++ [c]) j = if c.1 = j then c.2 else imageByte img j := by
  by_cases h : c.1 = j <;> simp [imageByte, h]

theorem imageMemory_seed (size : Nat) (img : Image) : (imageMemory size img).seed = none := by
  induction img using List.reverseRecOn with
  | nil => rfl
  | append_singleton img c ih =>
    rw [imageMemory_append_singleton]
    split <;> exact ih

/-- Each byte of a store made from an image: the last pair for its offset writes it, if the store reaches so far. -/
theorem readByte_imageMemory (size : Nat) (img : Image) (j : Nat) :
    readByte (imageMemory size img) j = if j < size then imageByte img j else 0 := by
  induction img using List.reverseRecOn with
  | nil => exact (ite_self _).symm
  | append_singleton img c ih =>
    rw [imageMemory_append_singleton, imageByte_append_singleton]
    by_cases hoffset : c.1 = j
    · subst hoffset
      by_cases hsize : c.1 < size
      · rw [if_pos hsize, if_pos hsize, if_pos rfl, readByte_writeByte_same (imageMemory_wf size img)]
      · rw [if_neg hsize, if_neg hsize, ih, if_neg hsize]
    · rw [if_neg hoffset, ← ih]
      split
      · exact readByte_writeByte_other (Ne.symm hoffset)
      · rfl

theorem imageMemory_holdsImage (size : Nat) (img : Image) : HoldsImage (imageMemory size img) size img :=
  ⟨imageMemory_seed size img, imageMemory_wf size img,
    fun j hj => by rw [readByte_imageMemory, if_pos hj],
    fun j hj => by rw [readByte_imageMemory, if_neg (Nat.not_lt.mpr hj)]⟩

theorem freshMemory_holdsImage {init : Drawable Image} {img : Image} (h : init = .fixed img) (size k : Nat) :
    HoldsImage (freshMemory size init k) size img := by
  rw [h]
  exact imageMemory_holdsImage size img

theorem freshRam_getElem? (k : Nat) (l : List RamBank) (b : Nat) :
    (freshRam k l)[b]? = l[b]?.map fun r => freshMemory r.size r.init (k + b) := by
  induction l generalizing k b with
  | nil => rfl
  | cons r l ih =>
    cases b with
    | zero => rfl
    | succ b => simpa [freshRam, Nat.add_assoc, Nat.add_comm 1 b] using ih (k + 1) b

theorem freshRam_holdsImage {l : List RamBank} {b : Nat} {r : RamBank} {img : Image} (hr : l[b]? = some r)
    (hinit : r.init = .fixed img) (k : Nat) : ∃ m, (freshRam k l)[b]? = some m ∧ HoldsImage m r.size img :=
  ⟨freshMemory r.size r.init (k + b), by rw [freshRam_getElem?, hr]; rfl, freshMemory_holdsImage hinit ..⟩

/-! ### COLD_RESET (R502, R503) -/

theorem exec_coldReset_refused {s : State} (h : ¬ configOk s.loader = true) :
    exec .coldReset s = .next (refusedWith s .config) := by
  rw [exec_eq_deliver, operation, coldReset, if_neg h]
  rfl

theorem exec_coldReset_accepted {s : State} (h : configOk s.loader = true) :
    exec .coldReset s = .next (answered (mmuReset (rebuilt s)) .unit) := by
  rw [exec_eq_deliver, operation, coldReset, if_pos h]
  rfl

/-- Settles O57: the check is that of R8 and R503, and the state of an accepted reset is `rebuilt` from the loader's
configuration, with the MMU reset. -/
theorem coldResetRebuilds : Obligations.ColdResetRebuilds := by
  refine ⟨decodeReadsBackEncode .coldReset rfl, fun s => ⟨fun hunsound => ?_, fun hsound => ?_⟩⟩
  · exact exec_coldReset_refused (mt (configurationCheckIsR503 s.loader).mp hunsound)
  · refine ⟨_, exec_coldReset_accepted ((configurationCheckIsR503 s.loader).mpr hsound), rfl, rfl, rfl, rfl, rfl,
      fun k _ => bankAt_buildSlots s.loader k, freshRam_length .., fun b r img hr hinit =>
      freshRam_holdsImage hr hinit s.draws, imageMemory_holdsImage .., fun img h => freshMemory_holdsImage h ..,
      fun img h => freshMemory_holdsImage h .., rfl, rfl, rfl, fun v h => drawnQuad_of_fixed h _,
      fun v h => drawnQuad_of_fixed h _, fun v h => drawnHalf_of_fixed h _, registersAtReset_decodedAgrees ..,
      rfl, rfl, rfl, rfl, rfl, rfl⟩

end Sys2Proof.Machine
end
